-- ==== Sys2Proof/Word.lean ====
section
/-! DEFINITION. The word and byte types of the block: 32-bit words on the command port and in responses
(30_encoding.md R60, R68, R71), 8-bit bytes of the frame store and containers (20_memory.md R40, 30_encoding.md R64). -/

namespace Sys2Proof

/-- A frame-store byte, a raw-pixel container or a line number (R40, R64, R63). -/
abbrev Byte := BitVec 8

/-- A word of the command port or of a response (R60, R68); also holds one native pixel, whose `PIX_W <= 32` bits are
the low ones (R4, R5 K7; log 13). -/
abbrev Word := BitVec 32

end Sys2Proof
end

