-- ==== Sys2Proof/Config.lean ====
section
/-! DEFINITION. The configuration record of one instance of the block (00_scope.md R4) and the two named
configurations DEFAULT and TINY (R6). Quantities computed from it are in Machine/Geometry.lean. The spec leaves no
result of a command undefined, so there is no free value (no opaque constant) here. -/

namespace Sys2Proof

/-- The two buffer slots (00_scope.md section 7.2, 20_memory.md R40). -/
inductive Slot where
  | A | B
  deriving DecidableEq, Repr

/-- The eight logical buttons (43_input.md R112). -/
inductive Button where
  | right | left | up | down | start | select | b | a
  deriving DecidableEq, Repr

/-- The role of one raw controller bit: `Button b`, `Exit` or `None` (R111). -/
inductive Role where
  | button (which : Button)
  | exit
  | unused
  deriving DecidableEq, Repr

/-- Four native pixel values (10_state.md R13). -/
structure Palette where
  p0 : Word
  p1 : Word
  p2 : Word
  p3 : Word
  deriving DecidableEq, Repr

/-- The bit position of each logical button in the joypad bitmask, `JOYBIT` (R4, R112). -/
structure JoyBits where
  right : Fin 8
  left : Fin 8
  up : Fin 8
  down : Fin 8
  start : Fin 8
  select : Fin 8
  b : Fin 8
  a : Fin 8
  deriving DecidableEq, Repr

/-- The parameters of rule R4, under the spec's names. Offsets and the stride count pixels (90_conflicts.md C2). -/
structure Config where
  /-- `N`, pixels per scanline. -/
  n : Nat
  /-- `H`, scanlines per frame. -/
  h : Nat
  /-- `PIX_BYTES`. -/
  pixBytes : Nat
  /-- `PALETTE[0..3]`. -/
  palette : Palette
  /-- `BG`. -/
  bg : Word
  /-- `STRIDE`. -/
  stride : Nat
  /-- `SURF_W`. -/
  surfW : Nat
  /-- `SURF_H`. -/
  surfH : Nat
  /-- `BASE_OFF`. -/
  baseOff : Nat
  /-- `ADDR_W`. -/
  addrW : Nat
  /-- `BUF_BASE[A]`. -/
  bufBaseA : Nat
  /-- `BUF_BASE[B]`. -/
  bufBaseB : Nat
  /-- `MAP[0..15]`, entry r at position r. -/
  map : List Role
  /-- `JOYBIT`. -/
  joyBit : JoyBits
  deriving DecidableEq, Repr

/-- The default `MAP` (R111): raw bits 0 to 7 drive joypad bits 0 to 7, raw 8 is B again, raw 9 is exit. -/
def defaultMap : List Role :=
  [.button .a, .button .b, .button .select, .button .start, .button .down, .button .up, .button .left, .button .right,
   .button .b, .exit, .unused, .unused, .unused, .unused, .unused, .unused]

/-- The default `JOYBIT` (R4, R112): Right 7, Left 6, Up 5, Down 4, Start 3, Select 2, B 1, A 0. -/
def defaultJoyBits : JoyBits :=
  { right := 7, left := 6, up := 5, down := 4, start := 3, select := 2, b := 1, a := 0 }

/-- The default `PALETTE` (R4). -/
def defaultPalette : Palette := { p0 := 0xFFFF, p1 := 0xAD55, p2 := 0x52AA, p3 := 0x0000 }

/-- Configuration DEFAULT: the column "default" of R4. -/
def Config.default : Config :=
  { n := 160, h := 144, pixBytes := 2, palette := defaultPalette, bg := 0x0000, stride := 512, surfW := 480, surfH := 272,
    baseOff := 32928, addrW := 32, bufBaseA := 0x00000000, bufBaseB := 0x00044000, map := defaultMap,
    joyBit := defaultJoyBits }

/-- Configuration TINY of R6. -/
def Config.tiny : Config :=
  { n := 4, h := 2, pixBytes := 2, palette := defaultPalette, bg := 0x1234, stride := 8, surfW := 6, surfH := 4,
    baseOff := 9, addrW := 32, bufBaseA := 0x00000000, bufBaseB := 0x00000040, map := defaultMap,
    joyBit := defaultJoyBits }

end Sys2Proof
end

