-- ==== Sys2Proof/Machine/Geometry.lean ====
section
/-! DEFINITION. Quantities computed from the configuration (00_scope.md R4, "derived quantities"), the frame-store
addresses (20_memory.md R41, R42), byte extraction in the spec's byte order (R43) and the well-formedness clauses K1
to K7 of R5. -/

namespace Sys2Proof

/-- `~s`: the other slot (00_scope.md section 7.2). -/
def Slot.other : Slot → Slot
  | .A => .B
  | .B => .A

/-- A slot as a one-bit value: A is 0, B is 1. -/
def Slot.bit : Slot → BitVec 1
  | .A => 0
  | .B => 1

/-- Entry `i` of a palette (R13). -/
def Palette.get (p : Palette) (i : BitVec 2) : Word :=
  match i.toNat with
  | 0 => p.p0
  | 1 => p.p1
  | 2 => p.p2
  | _ => p.p3

/-- The eight logical buttons, in the order of 43_input.md R112. -/
def Button.all : List Button := [.right, .left, .up, .down, .start, .select, .b, .a]

/-- `JOYBIT[b]`. -/
def JoyBits.pos (j : JoyBits) : Button → Fin 8
  | .right => j.right
  | .left => j.left
  | .up => j.up
  | .down => j.down
  | .start => j.start
  | .select => j.select
  | .b => j.b
  | .a => j.a

/-- Byte `k` of a word, byte 0 holding bits [7:0] (little-endian, R43, R63). -/
def byteOf (w : Word) (k : Nat) : Byte := w.extractLsb' (8 * k) 8

/-- A field placed in a word with its bit 0 at bit `pos`. -/
def placed {n : Nat} (v : BitVec n) (pos : Nat) : Word := v.setWidth 32 <<< pos

/-- The `n` bytes of a pixel value in address order (R43). -/
def pixelBytes (n : Nat) (v : Word) : List Byte := (List.range n).map (byteOf v)

namespace Config

/-- `PIX_W`. -/
def pixW (c : Config) : Nat := 8 * c.pixBytes

/-- `SLOT_PIX`. -/
def slotPix (c : Config) : Nat := c.stride * c.surfH

/-- `SLOT_BYTES`. -/
def slotBytes (c : Config) : Nat := c.pixBytes * c.slotPix

/-- `X0`. -/
def x0 (c : Config) : Nat := c.baseOff % c.stride

/-- `Y0`. -/
def y0 (c : Config) : Nat := c.baseOff / c.stride

/-- `PW = ceil(N/4)`, payload words of a SCANLINE. -/
def pw (c : Config) : Nat := (c.n + 3) / 4

/-- `BUF_BASE[s]`. -/
def bufBase (c : Config) : Slot → Nat
  | .A => c.bufBaseA
  | .B => c.bufBaseB

/-- `PixAddr(s, line, x)` (20_memory.md R42), on natural numbers. -/
def pixAddr (c : Config) (s : Slot) (line x : Nat) : Nat :=
  c.bufBase s + c.pixBytes * (c.baseOff + c.stride * line + x)

/-- `RowAddr`: where scanline `line` starts in slot `s` (41_compositor.md R87). -/
def rowAddr (c : Config) (s : Slot) (line : Nat) : Nat := c.pixAddr s line 0

/-- `N*PIX_BYTES`, the bytes of one scanline (R87). -/
def rowBytes (c : Config) : Nat := c.n * c.pixBytes

/-- Address `a` is a byte of slot `s` (R40). -/
def inSlot (c : Config) (s : Slot) (a : Nat) : Bool :=
  decide (c.bufBase s ≤ a) && decide (a < c.bufBase s + c.slotBytes)

/-- Address `a` is a byte of one of the two slots (R40). -/
def inSlots (c : Config) (a : Nat) : Bool := c.inSlot .A a || c.inSlot .B a

/-- The bytes of scanline `line` lie inside slot `s` (R40, R87). -/
def rowInSlot (c : Config) (s : Slot) (line : Nat) : Bool :=
  decide (c.bufBase s ≤ c.rowAddr s line) && decide (c.rowAddr s line + c.rowBytes ≤ c.bufBase s + c.slotBytes)

/-- `MAP[r]`. -/
def roleOf (c : Config) (r : Nat) : Role := c.map.getD r .unused

/-- R5 K1. -/
def k1 (c : Config) : Bool := decide (1 ≤ c.n) && decide (1 ≤ c.h) && decide (c.h ≤ 255)

/-- R5 K2. -/
def k2 (c : Config) : Bool := c.pixBytes == 1 || c.pixBytes == 2 || c.pixBytes == 4

/-- R5 K3. -/
def k3 (c : Config) : Bool := decide (c.surfW ≤ c.stride) && decide (1 ≤ c.surfW) && decide (1 ≤ c.surfH)

/-- R5 K4. -/
def k4 (c : Config) : Bool := decide (c.x0 + c.n ≤ c.surfW) && decide (c.y0 + c.h ≤ c.surfH)

/-- R5 K5. -/
def k5 (c : Config) : Bool :=
  decide (c.bufBaseA % c.pixBytes = 0) && decide (c.bufBaseB % c.pixBytes = 0)
  && decide (c.bufBaseA + c.slotBytes ≤ 2 ^ c.addrW) && decide (c.bufBaseB + c.slotBytes ≤ 2 ^ c.addrW)
  && (decide (c.bufBaseA + c.slotBytes ≤ c.bufBaseB) || decide (c.bufBaseB + c.slotBytes ≤ c.bufBaseA))

/-- R5 K6: `JOYBIT` is a bijection, `MAP` has sixteen entries and exactly one of them is `Exit`. -/
def k6 (c : Config) : Bool :=
  decide ((Button.all.map c.joyBit.pos).Nodup) && c.map.length == 16 && c.map.count .exit == 1

/-- R5 K7: `PALETTE[i]` and `BG` are `PIX_W`-bit values. -/
def k7 (c : Config) : Bool :=
  decide (c.palette.p0.toNat < 2 ^ c.pixW) && decide (c.palette.p1.toNat < 2 ^ c.pixW)
  && decide (c.palette.p2.toNat < 2 ^ c.pixW) && decide (c.palette.p3.toNat < 2 ^ c.pixW)
  && decide (c.bg.toNat < 2 ^ c.pixW)

end Config

end Sys2Proof
end

