-- ==== Sys2Proof/Syntax.lean ====
section
/-! DEFINITION. The eight commands of the block, one constructor per row of the opcode table (30_encoding.md R66). -/

namespace Sys2Proof

/-- A well-formed command with its operands (R61 to R65). -/
inductive Instr where
  /-- INIT, format Z (R61, 42_framesync.md R95). -/
  | init
  /-- RESOLVE, format I: `IDX8`, an 8-bit container (R62, 40_palette.md R81). -/
  | resolve (idx : Byte)
  /-- SCANLINE, format L: `LINE` and the payload words `P[0]` to `P[PW-1]` (R63, 41_compositor.md R85). -/
  | scanline (line : Byte) (payload : List Word)
  /-- PRESENT, format Z (R61, 42_framesync.md R97). -/
  | present
  /-- SAMPLE, format R: `RAW` (R65, 43_input.md R114). -/
  | sample (raw : BitVec 16)
  /-- RDJOY, format Z (R61, 43_input.md R119). -/
  | rdjoy
  /-- RDSTAT, format Z (R61, 44_system.md R125). -/
  | rdstat
  /-- RDFAULT, format Z (R61, 44_system.md R126). -/
  | rdfault
  deriving DecidableEq, Repr

end Sys2Proof
end

