-- ==== Sys2Proof/WellFormed.lean ====
section
/-! DEFINITION. Which configurations and which commands are well formed (00_scope.md R5, 30_encoding.md R60, R63). -/

namespace Sys2Proof

/-- A configuration is well formed when K1 to K7 of R5 all hold. -/
def Config.wf (c : Config) : Bool := c.k1 && c.k2 && c.k3 && c.k4 && c.k5 && c.k6 && c.k7

/-- A command is well formed under a configuration when it can be written as words: a SCANLINE carries exactly `PW`
payload words (R60, R63); every other operand's width is in its type. -/
def Instr.wf (c : Config) : Instr → Bool
  | .init => true
  | .resolve _ => true
  | .scanline _ payload => payload.length == c.pw
  | .present => true
  | .sample _ => true
  | .rdjoy => true
  | .rdstat => true
  | .rdfault => true

end Sys2Proof
end

