-- ==== Sys2Proof/Decode.lean ====
section
/-! DEFINITION. Framing and decoding of the command port's word stream (30_encoding.md R60 to R69), the encoder written
from the same formats, and the reading of one opcode-table word. -/

namespace Sys2Proof

/-- Why the words at the port are not (yet) a command. -/
inductive Reject where
  /-- The port is empty (R75: a host with nothing to do issues nothing). -/
  | noWord
  /-- A SCANLINE whose payload words have not all been handed over (R60). -/
  | incomplete
  /-- `OPC` is 0x0 or 0x9 to 0xF (R69). -/
  | reservedOpcode
  /-- `OPC` is 0x1 to 0x8 and a must-be-zero bit is 1 (R69). -/
  | mbzSet
  deriving DecidableEq, Repr

/-- What a header is, given the payload words framed with it. -/
inductive Verdict where
  | ok (i : Instr)
  | bad (why : Reject)
  deriving DecidableEq, Repr

/-- What the front of a word stream is: one command, one illegal header (with whatever was framed with it consumed), or
nothing that can be handled yet. `rest` is the stream behind it. -/
inductive Decoded where
  | command (i : Instr) (rest : List Word)
  | illegal (header : Word) (why : Reject) (rest : List Word)
  | waiting (why : Reject)
  deriving DecidableEq, Repr

/-- `OPC`, header bits [31:28] (R60). -/
def opcode (h : Word) : BitVec 4 := h.extractLsb' 28 4

/-- The length of a command in words, decided by `OPC` alone (R60). -/
def frameLength (c : Config) (h : Word) : Nat := if opcode h = 0x3 then 1 + c.pw else 1

/-- A command of format Z: bits [27:0] must be zero (R61). -/
def decodeZ (h : Word) (i : Instr) : Verdict := if h.extractLsb' 0 28 = 0 then .ok i else .bad .mbzSet

/-- A command of formats I and L: bits [27:8] must be zero, the operand is bits [7:0] (R62, R63). -/
def decodeByteOperand (h : Word) (f : Byte → Instr) : Verdict :=
  if h.extractLsb' 8 20 = 0 then .ok (f (h.extractLsb' 0 8)) else .bad .mbzSet

/-- A command of format R: bits [27:16] must be zero, the operand is bits [15:0] (R65). -/
def decodeHalfOperand (h : Word) (f : BitVec 16 → Instr) : Verdict :=
  if h.extractLsb' 16 12 = 0 then .ok (f (h.extractLsb' 0 16)) else .bad .mbzSet

/-- The command a header names, or why it is illegal (R66, R69). -/
def decodeHeader (h : Word) (payload : List Word) : Verdict :=
  match (opcode h).toNat with
  | 0x1 => decodeZ h .init
  | 0x2 => decodeByteOperand h .resolve
  | 0x3 => decodeByteOperand h (fun line => .scanline line payload)
  | 0x4 => decodeZ h .present
  | 0x5 => decodeHalfOperand h .sample
  | 0x6 => decodeZ h .rdjoy
  | 0x7 => decodeZ h .rdstat
  | 0x8 => decodeZ h .rdfault
  | _ => .bad .reservedOpcode

/-- Reads the front of the word stream: frame by `OPC` (R60), then classify the header (R67 steps 1 and 2). The payload
words of a SCANLINE are consumed with it whether or not its header is legal. -/
def decode (c : Config) : List Word → Decoded
  | [] => .waiting .noWord
  | h :: t =>
    if t.length < frameLength c h - 1 then .waiting .incomplete
    else
      match decodeHeader h (t.take (frameLength c h - 1)) with
      | .ok i => .command i (t.drop (frameLength c h - 1))
      | .bad why => .illegal h why (t.drop (frameLength c h - 1))

/-- The header word of a command: the row's fixed bits of R66 with the operand in its field (R61 to R65). -/
def Instr.header : Instr → Word
  | .init => 0x10000000
  | .resolve idx => 0x20000000 ||| idx.setWidth 32
  | .scanline line _ => 0x30000000 ||| line.setWidth 32
  | .present => 0x40000000
  | .sample raw => 0x50000000 ||| raw.setWidth 32
  | .rdjoy => 0x60000000
  | .rdstat => 0x70000000
  | .rdfault => 0x80000000

/-- The payload words that follow the header: SCANLINE's, no other command's (R60). -/
def Instr.payload : Instr → List Word
  | .init => []
  | .resolve _ => []
  | .scanline _ payload => payload
  | .present => []
  | .sample _ => []
  | .rdjoy => []
  | .rdstat => []
  | .rdfault => []

/-- The words of a command, in the order they go to the port. -/
def encode (i : Instr) : List Word := i.header :: i.payload

/-- The words of the command whose bits are `w`, bit 0 being bit 0 of the header and a later word's bits counting on:
as many words as the header's `OPC` frames, the bits above `nbits` zero. -/
def tableWords (c : Config) (nbits w : Nat) : List Word :=
  (List.range (frameLength c (BitVec.ofNat 32 (w % 2 ^ nbits)))).map
    (fun k => BitVec.ofNat 32 ((w % 2 ^ nbits) >>> (32 * k)))

/-- The command the decoder reads, in configuration DEFAULT, from the bits of an opcode-table word. -/
def decodeTableWord (nbits w : Nat) : Option Instr :=
  match decode Config.default (tableWords Config.default nbits w) with
  | .command i _ => some i
  | .illegal _ _ _ => none
  | .waiting _ => none

end Sys2Proof
end

