-- ==== Sys2Proof/Machine/State.lean ====
section
/-! DEFINITION. The state of the block (10_state.md R10), the reasons a step can stop, and the state after reset
(R30, 70_reset_and_hazards.md R150). -/

namespace Sys2Proof.Machine

/-- One response of the command port (30_encoding.md R68). -/
structure Response where
  err : Bool
  data : Word
  deriving DecidableEq, Repr

/-- Who moves at a step: the block (with its command master), the display, or the reset input (00_scope.md R2; log 7). -/
inductive Turn where
  | block
  | display
  /-- Reset between two commands, or while PRESENT waits (70_reset_and_hazards.md R150). -/
  | reset
  /-- Reset while the block executes the next command (R150, R151; log 18). -/
  | resetInCommand
  deriving DecidableEq, Repr

/-- The causes of the block's own faults, which are NEXT states of this model (60_exceptions.md R130, R131). -/
inductive Cause where
  | illegalCmd
  | notInit
  | reinit
  | lineRange
  | lineOrder
  | presentEarly
  deriving DecidableEq, Repr

/-- One view of the frame store: the listed bytes, addresses strictly rising, no entry equal to what an unlisted address
reads as (Machine/Ops.lean `unlistedByte`; log 2). -/
abbrev Memory := List Host.Cell

/-- The registers and the two memory views of R10, and below them the model's own fields (log 1, 5, 6, 7). -/
structure State where
  /-- The configuration of the instance; no step writes it (R4, R31; log 1). -/
  cfg : Config
  /-- `PAL[0..3]` (R13). -/
  pal : Palette
  /-- `BACK`, 0 is slot A, 1 is slot B (R14). -/
  back : Slot
  /-- `SCAN` (R15). -/
  scan : Slot
  /-- `PEND` (R16). -/
  pend : Bool
  /-- `LINE_NEXT` (R17). -/
  lineNext : BitVec 8
  /-- `INITED` (R18). -/
  inited : Bool
  /-- `FAULTED` (R19). -/
  faulted : Bool
  /-- `FCAUSE` (R20). -/
  fcause : BitVec 3
  /-- `FCMD` (R21). -/
  fcmd : BitVec 32
  /-- `EXIT` (R22). -/
  exitFlag : Bool
  /-- `RAW_CUR` (R23). -/
  rawCur : BitVec 16
  /-- `RAW_PREV` (R23). -/
  rawPrev : BitVec 16
  /-- `JOYPAD` (R24). -/
  joypad : BitVec 8
  /-- `MEM_W`, what the block has written (R27, 20_memory.md R46). -/
  memW : Memory
  /-- `MEM_D`, what the display sees (R27, R46). -/
  memD : Memory
  /-- Words the command master has lined up and the block has not taken (30_encoding.md R60; log 5). -/
  port : List Word
  /-- Every response produced, newest first (R68; log 6). -/
  responses : List Response
  /-- Who moves at the coming steps; empty means the default of Machine/Sequencer.lean `turnOf` (log 7). -/
  sched : List Turn
  /-- The display goes on accepting once `sched` is used up (the fairness of R99; log 7). -/
  displayFair : Bool
  deriving DecidableEq, Repr

/-- Machine stops. None is a fault of the block: those are next states (R131). -/
inductive Fault where
  /-- Raised by SCANLINE when the row it would write does not lie inside the slot: R40 says no other address is ever
  accessed. Safe: the model stops; it cannot happen in a well-formed configuration (R87; log 11). -/
  | outsideSlots
  deriving DecidableEq, Repr

/-- What the model gives no meaning to. -/
inductive Refusal where
  /-- Raised by the dispatch for a command with no meaning yet; none is left. Safe. -/
  | notModelled (mnemonic : String)
  /-- Raised by `step` when the configuration breaks R5 ("a model should refuse any other"). Safe (log 10). -/
  | illFormedConfig
  deriving DecidableEq, Repr

/-- The state after reset of an instance with configuration `c` (R30, R150): every register at the value R30 gives; the
frame store has no value; nothing at the port, no response, no schedule, a fair display. -/
def State.resetOf (c : Config) : State :=
  { cfg := c, pal := c.palette, back := .A, scan := .B, pend := false, lineNext := 0, inited := false, faulted := false,
    fcause := 0, fcmd := 0, exitFlag := false, rawCur := 0, rawPrev := 0, joypad := 0xFF, memW := [], memD := [],
    port := [], responses := [], sched := [],
    displayFair := true }

/-- The machine right after reset, in configuration DEFAULT (R4, R30). -/
def State.reset : State := State.resetOf Config.default

end Sys2Proof.Machine
end

