-- ==== Sys2Proof/Machine/Ops.lean ====
section
/-! DEFINITION. The named operations over the frame store and the registers: reading and writing the two views, the
flush, the response, the fault entry (R131: one shared operation; the block has no return from a fault, R134), the
refusal of a faulted block (R133), the phases of PRESENT, the display's accept step and the reset input. -/

namespace Sys2Proof.Machine

/-- How a command ends. -/
abbrev Result := Host.Outcome State Fault Refusal

/-! ### One view of the frame store -/

/-- The listed byte at address `a`, if any. -/
def Memory.lookup (m : Memory) (a : Nat) : Option Byte := (m.find? (fun c => c.1 == a)).map (fun c => c.2)

/-- The background byte at address `a`: `BG` little-endian in every pixel of both slots (42_framesync.md R95,
20_memory.md R43). -/
def backgroundByte (c : Config) (a : Nat) : Option Byte :=
  if c.inSlot .A a then some (byteOf c.bg ((a - c.bufBaseA) % c.pixBytes))
  else if c.inSlot .B a then some (byteOf c.bg ((a - c.bufBaseB) % c.pixBytes))
  else none

/-- What an unlisted address reads as: no value before INIT (R30, R56), the background after it (R18: `INITED` records
that both buffers were cleared; log 2). -/
def unlistedByte (c : Config) (inited : Bool) (a : Nat) : Option Byte := if inited then backgroundByte c a else none

/-- The byte at address `a` of a view; `none` where nothing has been written since reset. -/
def Memory.byteAt (c : Config) (inited : Bool) (m : Memory) (a : Nat) : Option Byte :=
  match m.lookup a with
  | some b => some b
  | none => unlistedByte c inited a

/-- The canonical form: addresses strictly rising, inside the slots, and no entry equal to what its address reads as
when unlisted. -/
def Memory.wf (c : Config) (inited : Bool) (m : Memory) : Bool :=
  decide (m.Pairwise (fun x y => x.1 < y.1))
  && m.all (fun e => c.inSlots e.1 && unlistedByte c inited e.1 != some e.2)

/-- Bytes laid out from address `a` upwards. -/
def cellsFrom (a : Nat) : List Byte → Memory
  | [] => []
  | b :: bs => (a, b) :: cellsFrom (a + 1) bs

/-- Writes a run of bytes from address `a`: entries below and above stay, the run's own are listed unless they read the
same unlisted. -/
def Memory.writeRun (c : Config) (inited : Bool) (m : Memory) (a : Nat) (bs : List Byte) : Memory :=
  m.filter (fun e => decide (e.1 < a))
  ++ (cellsFrom a bs).filter (fun e => unlistedByte c inited e.1 != some e.2)
  ++ m.filter (fun e => decide (a + bs.length ≤ e.1))

/-- `dst` with the bytes of addresses `[a, a+n)` taken from `src`. -/
def Memory.copyRange (src dst : Memory) (a n : Nat) : Memory :=
  dst.filter (fun e => decide (e.1 < a))
  ++ src.filter (fun e => decide (a ≤ e.1) && decide (e.1 < a + n))
  ++ dst.filter (fun e => decide (a + n ≤ e.1))

/-- A view with nothing listed inside the slots. -/
def Memory.outsideSlots (c : Config) (m : Memory) : Memory := m.filter (fun e => !c.inSlots e.1)

/-! ### The frame store of a state -/

/-- `MEM_W[a]` (R46). -/
def State.writerByte (s : State) (a : Nat) : Option Byte := s.memW.byteAt s.cfg s.inited a

/-- `MEM_D[a]` (R46). -/
def State.displayByte (s : State) (a : Nat) : Option Byte := s.memD.byteAt s.cfg s.inited a

/-- Writes a run of bytes into `MEM_W` and nothing else (R45). -/
def State.writeBytes (s : State) (a : Nat) (bs : List Byte) : State :=
  { s with memW := s.memW.writeRun s.cfg s.inited a bs }

/-- `MemWrite(addr, n, v)`: the n-byte value `v`, little-endian, into `MEM_W` (R43, R45). -/
def State.memWrite (s : State) (a n : Nat) (v : Word) : State := s.writeBytes a (pixelBytes n v)

/-- `Flush(addr, n)` (R46). -/
def State.flush (s : State) (a n : Nat) : State := { s with memD := Memory.copyRange s.memW s.memD a n }

/-! ### Responses, faults, refusals -/

/-- `respond(err, data)` (30_encoding.md R68). -/
def State.respond (s : State) (err : Bool) (data : Word) : State := { s with responses := ⟨err, data⟩ :: s.responses }

/-- The code of a fault (R130). -/
def Cause.code : Cause → BitVec 3
  | .illegalCmd => 1
  | .notInit => 2
  | .reinit => 3
  | .lineRange => 4
  | .lineOrder => 5
  | .presentEarly => 6

/-- `raise Fault(cause)` for the command with this header word (R131). -/
def State.raiseFault (s : State) (cause : Cause) (header : Word) : State :=
  { s with faulted := true, fcause := cause.code, fcmd := header }.respond true (cause.code.setWidth 32)

/-- A faulted block refuses a command: `respond(1, zext_32(FCAUSE))`, no state change (R67, R133). -/
def State.refuseFaulted (s : State) : State := s.respond true (s.fcause.setWidth 32)

/-- Step 4 of R67: a faulted block refuses, any other runs the command. -/
def unlessFaulted (s : State) (run : Result) : Result := if s.faulted then .next s.refuseFaulted else run

/-- Step 2 of R67: a header that is no command. -/
def State.illegalCommand (s : State) (header : Word) : State :=
  if s.faulted then s.refuseFaulted else s.raiseFault .illegalCmd header

/-! ### INIT -/

/-- The effect of INIT on the frame store and the registers (R95). Every pixel of both slots becomes `BG`: nothing is
listed inside the slots and `INITED` says that an unlisted byte is background (log 2); then both slots are flushed. -/
def State.initialise (s : State) : State :=
  let cleared := { s with memW := s.memW.outsideSlots s.cfg, inited := true }
  let flushed := (cleared.flush (s.cfg.bufBase .A) s.cfg.slotBytes).flush (s.cfg.bufBase .B) s.cfg.slotBytes
  { flushed with back := .A, scan := .B, pend := false, lineNext := 0 }

/-! ### PRESENT and the display -/

/-- PRESENT waits for the display: `PEND = 1` and `SCAN != BACK` (R99). -/
def State.waiting (s : State) : Bool := s.pend && s.scan != s.back

/-- Submit phase (R98). -/
def State.submit (s : State) : State := { s with pend := true }

/-- Complete phase (R100). -/
def State.complete (s : State) : State :=
  { s with back := s.back.other, lineNext := 0, pend := false }.respond false 0

/-- The display's accept step; no step that changes anything when it is not enabled (R101). -/
def State.displayAccept (s : State) : State := if s.waiting then { s with scan := s.back } else s

/-! ### The command port, the schedule, reset -/

/-- The port with these words left. -/
def State.withPort (s : State) (ws : List Word) : State := { s with port := ws }

/-- The schedule after one turn has been taken from it. -/
def State.dropTurn (s : State) : State := { s with sched := s.sched.tail }

/-- The words left at the port after a reset: a command handed over only in part is abandoned (R150; log 9). -/
def portAfterReset (c : Config) (ws : List Word) : List Word :=
  match decode c ws with
  | .command _ _ => ws
  | .illegal _ _ _ => ws
  | .waiting _ => []

/-- The reset input, asserted and released (R150, R151): every register at its reset value, the frame store without a
value (log 3), the command in progress abandoned without a response. What stands outside the block stays. -/
def State.resetInput (s : State) : State :=
  { State.resetOf s.cfg with port := portAfterReset s.cfg s.port, responses := s.responses, sched := s.sched,
                              displayFair := s.displayFair }

/-- The words behind the command, legal or not, at the front of the port. -/
def wordsBehindCommand (c : Config) (ws : List Word) : List Word :=
  match decode c ws with
  | .command _ rest => rest
  | .illegal _ _ rest => rest
  | .waiting _ => ws

/-- The reset input while the block executes a command: that command, taken from the port, is abandoned without a
response; which of its pixel writes happened does not matter, no byte has a value after a reset (R150, R151; log 18).
With `PEND = 1` the command in progress is the PRESENT in flight. -/
def State.resetInCommand (s : State) : State :=
  if s.pend then s.resetInput else (s.withPort (wordsBehindCommand s.cfg s.port)).resetInput

end Sys2Proof.Machine
end

