-- ==== Sys2Proof/Machine/Operands.lean ====
section
/-! DEFINITION. Operand assembly (30_encoding.md R63, R64, R74): containers, the raw row of a SCANLINE, the palette
look-up and the expansion of a row (40_palette.md R80, 41_compositor.md R86). -/

namespace Sys2Proof.Machine

/-- The colour index a container carries: its bits [1:0] (R64). -/
def colourIndex (container : Byte) : BitVec 2 := container.extractLsb' 0 2

/-- `resolve(c) = PAL[c[1:0]]` (R80). -/
def resolve (pal : Palette) (container : Byte) : Word := pal.get (colourIndex container)

/-- The four containers of a payload word, pixel 4j first (R63). -/
def wordContainers (w : Word) : List Byte := [byteOf w 0, byteOf w 1, byteOf w 2, byteOf w 3]

/-- `row[0..N-1]`: the first N containers of the payload; the spare ones of the last word are ignored (R63; log 12). -/
def rawRow (n : Nat) (payload : List Word) : List Byte := (payload.flatMap wordContainers).take n

/-- `expand(row)` (R86). -/
def expand (pal : Palette) (row : List Byte) : List Word := row.map (resolve pal)

/-- The bytes of a row of native pixels in address order (R43, R87). -/
def rowPixels (pixBytes : Nat) (row : List Word) : List Byte := row.flatMap (pixelBytes pixBytes)

end Sys2Proof.Machine
end

