-- ==== Sys2Proof/Machine/Compositor.lean ====
section
/-! DEFINITION. The scanline compositor's command, SCANLINE (41_compositor.md R85 to R90). -/

namespace Sys2Proof.Machine

/-- The bytes a SCANLINE with this payload writes: its row expanded through the palette (R86, R87). -/
def State.scanlineBytes (s : State) (payload : List Word) : List Byte :=
  rowPixels s.cfg.pixBytes (expand s.pal (rawRow s.cfg.n payload))

/-- The effect of a SCANLINE that passed its checks (R85): the row into the back slot, the flush of exactly those
bytes (R90), `LINE_NEXT <- LINE + 1`, the response. -/
def State.putScanline (s : State) (line : Byte) (payload : List Word) : State :=
  let row := s.cfg.rowAddr s.back line.toNat
  let written := (s.writeBytes row (s.scanlineBytes payload)).flush row s.cfg.rowBytes
  { written with lineNext := line + 1 }.respond false 0

/-- SCANLINE (R85), its checks in the order of R132. -/
def execScanline (line : Byte) (payload : List Word) (s : State) : Result :=
  let header := (Instr.scanline line payload).header
  unlessFaulted s <|
    if !s.inited then .next (s.raiseFault .notInit header)
    else if s.cfg.h ≤ line.toNat then .next (s.raiseFault .lineRange header)
    else if line ≠ s.lineNext then .next (s.raiseFault .lineOrder header)
    else if s.cfg.rowInSlot s.back line.toNat then .next (s.putScanline line payload)
    else .fault .outsideSlots

end Sys2Proof.Machine
end

