-- ==== Sys2Proof/Machine/FrameSync.lean ====
section
/-! DEFINITION. The frame synchronizer's commands, INIT (42_framesync.md R95) and PRESENT (R97 to R101). -/

namespace Sys2Proof.Machine

/-- INIT (R95). -/
def execInit (s : State) : Result :=
  unlessFaulted s <|
    if s.inited then .next (s.raiseFault .reinit Instr.init.header) else .next (s.initialise.respond false 0)

/-- PRESENT (R97). With `PEND = 0` it is the command as it arrives: the checks, then submit (R98). With `PEND = 1` it is
the PRESENT in flight: it completes when the display has accepted (R100) and holds until then (R99; log 8). -/
def execPresent (s : State) : Result :=
  if s.pend then
    if s.scan = s.back then .next s.complete else .next s
  else
    unlessFaulted s <|
      if !s.inited then .next (s.raiseFault .notInit Instr.present.header)
      else if s.lineNext.toNat ≠ s.cfg.h then .next (s.raiseFault .presentEarly Instr.present.header)
      else .next s.submit

end Sys2Proof.Machine
end

