-- ==== Sys2Proof/Machine/Flags.lean ====
section
/-! DEFINITION. The status word (10_state.md R26), the edge sets (R25, 43_input.md R113), the two passes over the joypad
bitmask (R115, R117) and the exit edge (R118). -/

namespace Sys2Proof.Machine

/-- `STATUS` (R26): [7:0] `LINE_NEXT`, [8] `INITED`, [9] `FAULTED`, [12:10] `FCAUSE`, [13] `BACK`, [14] `SCAN`, [15] `PEND`,
[16] `EXIT`, [31:17] zero. -/
def State.statusWord (s : State) : Word :=
  placed s.lineNext 0 ||| placed (BitVec.ofBool s.inited) 8 ||| placed (BitVec.ofBool s.faulted) 9 ||| placed s.fcause 10
    ||| placed s.back.bit 13 ||| placed s.scan.bit 14 ||| placed (BitVec.ofBool s.pend) 15
    ||| placed (BitVec.ofBool s.exitFlag) 16

/-- The pressed-edge set of two consecutive samples (R113). -/
def pressEdges (prev cur : BitVec 16) : BitVec 16 := cur &&& ~~~prev

/-- The released-edge set of two consecutive samples (R113). -/
def releaseEdges (prev cur : BitVec 16) : BitVec 16 := prev &&& ~~~cur

/-- The response of a SAMPLE, `{r, p}`: released edges in [31:16], pressed edges in [15:0] (30_encoding.md R68). -/
def edgeWord (released pressed : BitVec 16) : Word := placed released 16 ||| placed pressed 0

/-- `EDGE_P` (R25). -/
def State.edgeP (s : State) : BitVec 16 := pressEdges s.rawPrev s.rawCur

/-- `EDGE_R` (R25). -/
def State.edgeR (s : State) : BitVec 16 := releaseEdges s.rawPrev s.rawCur

/-- The OR of `v[i]` over the raw bits `i` whose role is `role` (R115). -/
def anyWithRole (c : Config) (role : Role) (v : BitVec 16) : Bool :=
  (List.range 16).any (fun i => c.roleOf i == role && v.getLsbD i)

/-- `JOYPAD[k] <- 1`. -/
def setJoyBit (jp : BitVec 8) (k : Fin 8) : BitVec 8 := jp ||| (1#8 <<< k.val)

/-- `JOYPAD[k] <- 0`. -/
def clearJoyBit (jp : BitVec 8) (k : Fin 8) : BitVec 8 := jp &&& ~~~(1#8 <<< k.val)

/-- The release pass (R115): a button with a released edge and no raw input still held goes to 1. -/
def releasePass (c : Config) (released held : BitVec 16) (jp : BitVec 8) : BitVec 8 :=
  Button.all.foldl
    (fun acc btn =>
      if anyWithRole c (.button btn) released && !anyWithRole c (.button btn) held then setJoyBit acc (c.joyBit.pos btn)
      else acc)
    jp

/-- The press pass (R115): a button with a pressed edge goes to 0. -/
def pressPass (c : Config) (pressed : BitVec 16) (jp : BitVec 8) : BitVec 8 :=
  Button.all.foldl
    (fun acc btn => if anyWithRole c (.button btn) pressed then clearJoyBit acc (c.joyBit.pos btn) else acc) jp

/-- The joypad bitmask after a sample: the release pass, then the press pass (R115, R116). -/
def joypadAfter (c : Config) (prev cur : BitVec 16) (jp : BitVec 8) : BitVec 8 :=
  pressPass c (pressEdges prev cur) (releasePass c (releaseEdges prev cur) cur jp)

/-- `EXIT` after a sample: sticky, set by a press edge of the raw bit whose role is `Exit` (R118). -/
def exitAfter (c : Config) (prev cur : BitVec 16) (exitFlag : Bool) : Bool :=
  exitFlag || anyWithRole c .exit (pressEdges prev cur)

end Sys2Proof.Machine
end

