-- ==== Sys2Proof/Machine/Input.lean ====
section
/-! DEFINITION. The input mapper's commands, SAMPLE (43_input.md R114) and RDJOY (R119). -/

namespace Sys2Proof.Machine

/-- The effect of a SAMPLE (R114): latch, joypad, exit flag, and the response `{r, p}`. -/
def State.latch (s : State) (raw : BitVec 16) : State :=
  { s with
    rawPrev := s.rawCur
    rawCur := raw
    joypad := joypadAfter s.cfg s.rawCur raw s.joypad
    exitFlag := exitAfter s.cfg s.rawCur raw s.exitFlag }.respond false
      (edgeWord (releaseEdges s.rawCur raw) (pressEdges s.rawCur raw))

/-- SAMPLE (R114). -/
def execSample (raw : BitVec 16) (s : State) : Result := unlessFaulted s (.next (s.latch raw))

/-- RDJOY (R119): answered in every state, changes nothing. -/
def execRdjoy (s : State) : Result := .next (s.respond false (s.joypad.setWidth 32))

end Sys2Proof.Machine
end

