-- ==== Sys2Proof/Machine/PaletteUnit.lean ====
section
/-! DEFINITION. The palette table's command, RESOLVE (40_palette.md R81). -/

namespace Sys2Proof.Machine

/-- RESOLVE (R81): answered in every state, changes nothing. -/
def execResolve (idx : Byte) (s : State) : Result := .next (s.respond false (resolve s.pal idx))

end Sys2Proof.Machine
end

