-- ==== Sys2Proof/Machine/System.lean ====
section
/-! DEFINITION. The status commands, RDSTAT (44_system.md R125) and RDFAULT (R126). -/

namespace Sys2Proof.Machine

/-- RDSTAT (R125): answered in every state, changes nothing. -/
def execRdstat (s : State) : Result := .next (s.respond false s.statusWord)

/-- RDFAULT (R126): answered in every state, changes nothing. -/
def execRdfault (s : State) : Result := .next (s.respond false s.fcmd)

end Sys2Proof.Machine
end

