-- ==== Sys2Proof/Machine/Dispatch.lean ====
section
/-! DEFINITION. The dispatch: one arm per command (30_encoding.md R66). -/

namespace Sys2Proof.Machine

def exec (i : Instr) (s : State) : Host.Outcome State Fault Refusal :=
  match i with
  | .init => Sys2Proof.Machine.execInit s
  | .resolve idx => Sys2Proof.Machine.execResolve idx s
  | .scanline line payload => Sys2Proof.Machine.execScanline line payload s
  | .present => Sys2Proof.Machine.execPresent s
  | .sample raw => Sys2Proof.Machine.execSample raw s
  | .rdjoy => Sys2Proof.Machine.execRdjoy s
  | .rdstat => Sys2Proof.Machine.execRdstat s
  | .rdfault => Sys2Proof.Machine.execRdfault s

end Sys2Proof.Machine
end

