-- ==== Sys2Proof/Machine/Sequencer.lean ====
section
/-! DEFINITION. Whose turn a step is and what a turn does (00_scope.md R2, R3; 30_encoding.md R67; log 5, 7). -/

namespace Sys2Proof.Machine

/-- Who moves next: the head of the schedule; with none, a fair display when PRESENT waits for it (R99), else the block,
whose turns hold for ever when PRESENT waits for a display that is not fair: the hang of R99 (log 7). -/
def State.turnOf (s : State) : Turn :=
  match s.sched with
  | t :: _ => t
  | [] => if s.waiting && s.displayFair then .display else .block

/-- The turn due is a reset, in either place (R150). -/
def State.resetDue (s : State) : Bool := s.turnOf == .reset || s.turnOf == .resetInCommand

/-- A turn of the block. While `PEND = 1` the port accepts nothing and the PRESENT in flight goes on (R3, R16, R98);
otherwise the front of the port is taken and handled (R67); with no whole command there, the block idles (log 5). -/
def blockTurn (s : State) : Result :=
  if s.pend then exec .present s
  else
    match decode s.cfg s.port with
    | .command i rest => exec i (s.withPort rest)
    | .illegal header _ rest => .next ((s.withPort rest).illegalCommand header)
    | .waiting _ => .next s

/-- One turn. -/
def runTurn (t : Turn) (s : State) : Result :=
  match t with
  | .block => blockTurn s
  | .display => .next s.displayAccept
  | .reset => .next s.resetInput
  | .resetInCommand => .next s.resetInCommand

/-- One step of a well-formed configuration: the turn due, on the state with it taken from the schedule. -/
def runStep (s : State) : Result := runTurn s.turnOf s.dropTurn

end Sys2Proof.Machine
end

