-- ==== Sys2Proof/Machine/Step.lean ====
section
/-! DEFINITION. One step of the machine, and the placing of one command where the next step takes it. -/

namespace Sys2Proof.Machine

/-- One step. A configuration that breaks 00_scope.md R5 is refused (log 10). -/
def step (s : State) : Host.Outcome State Fault Refusal := if s.cfg.wf then runStep s else .refused .illFormedConfig

/-- `s` with the command whose bits are `w` at the port, the port ready and the block's turn next, so that the next step
takes and runs exactly it (log 15). -/
def State.withFetchWord (s : State) (nbits w : Nat) : State :=
  { s with port := tableWords s.cfg nbits w, pend := false, sched := .block :: s.sched }

end Sys2Proof.Machine
end

