-- ==== Sys2Proof/Machine/Outputs.lean ====
section
/-! DEFINITION. What the outside sees of a state without a command: the level outputs (44_system.md R127), the display's
reads (20_memory.md R48, R49), the protocol position (10_state.md R12, 42_framesync.md R105) and the end of a run
(70_reset_and_hazards.md R155). -/

namespace Sys2Proof.Machine

/-- The level outputs, driven continuously from the registers (R127). -/
structure Outputs where
  exit : Bool
  faulted : Bool
  pend : Bool
  back : Slot
  scan : Slot
  /-- `BUF_BASE[BACK]`. -/
  writeBase : Nat
  deriving DecidableEq, Repr

/-- The level outputs of a state (R127). -/
def State.outputs (s : State) : Outputs :=
  { exit := s.exitFlag, faulted := s.faulted, pend := s.pend, back := s.back, scan := s.scan,
    writeBase := s.cfg.bufBase s.back }

/-- The front slot, `~BACK` (10_state.md R14). -/
def State.front (s : State) : Slot := s.back.other

/-- A byte is clean when both views agree on it (R46). -/
def State.clean (s : State) (a : Nat) : Bool := s.displayByte a == s.writerByte a

/-- The display may read the value `b` at address `a`: only inside slot `SCAN`; a clean byte reads as itself, a dirty one
as the old or the new byte, a byte without a value as any (R48, R49; log 17). -/
def State.displayMayRead (s : State) (a : Nat) (b : Byte) : Bool :=
  s.cfg.inSlot s.scan a &&
    match s.displayByte a with
    | some old => b == old || s.writerByte a == some b
    | none => true

/-- The display's `MemRead(addr, n)` may return these bytes (R49). -/
def State.displayMayReadRun (s : State) (a : Nat) : List Byte → Bool
  | [] => true
  | b :: bs => s.displayMayRead a b && s.displayMayReadRun (a + 1) bs

/-- While a command leads from `before` to `after`, the display may read `b` at `a`, inside the slot that `SCAN` names as
the command starts: what it may read before, or the byte the command leaves there (R48, R50: old or new for a byte the
command writes, any value while INIT fills the store; log 4). -/
def displayMayReadDuring (before after : State) (a : Nat) (b : Byte) : Bool :=
  before.displayMayRead a b || (before.cfg.inSlot before.scan a && after.displayByte a == some b)

/-- The protocol positions of R105. -/
inductive Position where
  /-- U: `INITED = 0`. -/
  | uninitialised
  /-- F(k): in a frame with k lines written. -/
  | inFrame (lines : Nat)
  /-- C: `LINE_NEXT = H`. -/
  | frameComplete
  /-- W: `PEND = 1`. -/
  | presentWaiting
  /-- X: `FAULTED = 1`. -/
  | faulted
  deriving DecidableEq, Repr

/-- The protocol position of a state (R12, R105). -/
def State.position (s : State) : Position :=
  if s.faulted then .faulted
  else if s.pend then .presentWaiting
  else if !s.inited then .uninitialised
  else if s.lineNext.toNat = s.cfg.h then .frameComplete
  else .inFrame s.lineNext.toNat

/-- How a run ended (R155). -/
inductive RunEnd where
  /-- T1: at a frame boundary with `EXIT = 1`. -/
  | normal
  /-- T2: with `FAULTED = 1`. -/
  | onFault
  /-- T3: the commands just stop. -/
  | abandoned
  deriving DecidableEq, Repr

/-- A frame boundary: `LINE_NEXT = 0`, `PEND = 0` (R155 T1). -/
def State.atFrameBoundary (s : State) : Bool := s.lineNext == 0 && !s.pend

/-- The ends of R155 that fit a state: T1 and T2 by their conditions, T3 at any point. More than one can fit. -/
def State.endFits (s : State) : RunEnd → Bool
  | .normal => s.atFrameBoundary && s.exitFlag
  | .onFault => s.faulted
  | .abandoned => true

/-- The end a run has come to when the command master issues nothing more; none while PRESENT waits or a whole command is
at the port (R155). DESIGN CHOICE (log 19): R155 gives no order among T1, T2 and T3 where more than one fits; this names
T2 before T1 and T3 only where neither fits. `endFits` makes no such choice. -/
def State.runEnd (s : State) : Option RunEnd :=
  match decode s.cfg s.port with
  | .command _ _ => none
  | .illegal _ _ _ => none
  | .waiting _ =>
    if s.pend then none
    else if s.endFits .onFault then some .onFault
    else if s.endFits .normal then some .normal
    else some .abandoned

end Sys2Proof.Machine
end

