-- ==== Sys2Proof/Machine/Reference.lean ====
section
/-! DEFINITION. The pixel loops of the spec's pseudocode, one `MemWrite` at a time (41_compositor.md R85, 42_framesync.md
R95), and the one-step form of PRESENT (R102). No instruction calls them: statements compare the meanings with them. -/

namespace Sys2Proof.Machine

/-- `c = P[x div 4][8*(x mod 4)+7 : 8*(x mod 4)]`: the container of raw pixel x (R85). -/
def payloadContainer (payload : List Word) (x : Nat) : Byte := byteOf (payload.getD (x / 4) 0) (x % 4)

/-- The pixel writes of a SCANLINE for the positions `xs`, in that order (R85; the order is not specified, R48). -/
def scanlinePixelLoop (line : Nat) (payload : List Word) (xs : List Nat) (s : State) : State :=
  xs.foldl
    (fun t x => t.memWrite (s.cfg.pixAddr s.back line x) s.cfg.pixBytes (resolve s.pal (payloadContainer payload x))) s

/-- The writes and the flush of a SCANLINE in the pseudocode's form (R85, R90). -/
def scanlineByPixels (line : Nat) (payload : List Word) (xs : List Nat) (s : State) : State :=
  (scanlinePixelLoop line payload xs s).flush (s.cfg.pixAddr s.back line 0) (s.cfg.n * s.cfg.pixBytes)

/-- `BG` to the pixels `ps` of a slot (R95). -/
def initPixelLoop (slot : Slot) (ps : List Nat) (s : State) : State :=
  ps.foldl (fun t p => t.memWrite (s.cfg.bufBase slot + s.cfg.pixBytes * p) s.cfg.pixBytes s.cfg.bg) s

/-- The frame-store part of INIT in the pseudocode's form: every pixel of both slots, then both flushes (R95). -/
def initByPixels (s : State) : State :=
  let written := initPixelLoop .B (List.range s.cfg.slotPix) (initPixelLoop .A (List.range s.cfg.slotPix) s)
  (written.flush (s.cfg.bufBase .A) s.cfg.slotBytes).flush (s.cfg.bufBase .B) s.cfg.slotBytes

/-- The one-step form of a successful PRESENT: `SCAN <- BACK; BACK <- ~BACK; LINE_NEXT <- 0`, every right-hand side read
before any write, and the response (R102). -/
def State.presentAtOnce (s : State) : State :=
  { s with scan := s.back, back := s.back.other, lineNext := 0 }.respond false 0

end Sys2Proof.Machine
end

