-- ==== Sys2Proof/Machine/Script.lean ====
section
/-! DEFINITION. The textual form of a command script and its three pseudo-commands (30_encoding.md R72, R73): the lines of
a script, the real commands a line stands for, the words they are, and a reader of the text (log 16). -/

namespace Sys2Proof.Machine

/-- One line of a script (R72, R73). -/
inductive ScriptLine where
  | init
  | resolve (idx : Nat)
  | scanline (line : Nat) (row : List Nat)
  | present
  | sample (raw : Nat)
  | rdjoy
  | rdstat
  | rdfault
  /-- `.word 0x........`: a raw word. -/
  | word (w : Nat)
  | fill (line container : Nat)
  | frameFill (container : Nat)
  | frame (raw : Nat) (rows : List (List Nat))
  deriving DecidableEq, Repr

/-- A container or line number of the text: 0 to 255 (R72). -/
def fitsByte (v : Nat) : Bool := decide (v < 256)

/-- A row of the text: exactly N containers (R72). -/
def rowFits (c : Config) (row : List Nat) : Bool := row.length == c.n && row.all fitsByte

/-- The operand ranges of R72 and R73. -/
def ScriptLine.wf (c : Config) : ScriptLine → Bool
  | .init => true
  | .resolve idx => fitsByte idx
  | .scanline line row => fitsByte line && rowFits c row
  | .present => true
  | .sample raw => decide (raw < 65536)
  | .rdjoy => true
  | .rdstat => true
  | .rdfault => true
  | .word w => decide (w < 4294967296)
  | .fill line container => fitsByte line && fitsByte container
  | .frameFill container => fitsByte container
  | .frame raw rows => decide (raw < 65536) && rows.length == c.h && rows.all (rowFits c)

/-- A payload word from its four containers, in pixel order (30_encoding.md R63). -/
def payloadWord (p q r t : Byte) : Word := placed t 24 ||| placed r 16 ||| placed q 8 ||| placed p 0

/-- Containers packed four to a payload word, pixel 4j in the low byte; a short last word is filled with zero containers,
which are ignored (30_encoding.md R63). -/
def packRow : List Byte → List Word
  | [] => []
  | [p] => [payloadWord p 0 0 0]
  | [p, q] => [payloadWord p q 0 0]
  | [p, q, r] => [payloadWord p q r 0]
  | p :: q :: r :: t :: rest => payloadWord p q r t :: packRow rest

/-- The SCANLINE of a line number and a row of containers. -/
def scanlineOf (line : Nat) (row : List Nat) : Instr :=
  .scanline (BitVec.ofNat 8 line) (packRow (row.map (BitVec.ofNat 8)))

/-- `FILL line, c` is `SCANLINE line, [c c ... c]` with N copies (R73). -/
def fillOf (c : Config) (line container : Nat) : Instr := scanlineOf line (List.replicate c.n container)

/-- The SCANLINEs of consecutive rows, from line number `line` on. -/
def rowsFrom (line : Nat) : List (List Nat) → List Instr
  | [] => []
  | row :: rows => scanlineOf line row :: rowsFrom (line + 1) rows

/-- The real commands a line stands for; a raw word stands for itself and is no command here (R73). -/
def ScriptLine.commands (c : Config) : ScriptLine → List Instr
  | .init => [.init]
  | .resolve idx => [.resolve (BitVec.ofNat 8 idx)]
  | .scanline line row => [scanlineOf line row]
  | .present => [.present]
  | .sample raw => [.sample (BitVec.ofNat 16 raw)]
  | .rdjoy => [.rdjoy]
  | .rdstat => [.rdstat]
  | .rdfault => [.rdfault]
  | .word _ => []
  | .fill line container => [fillOf c line container]
  | .frameFill container => (List.range c.h).map (fun line => fillOf c line container)
  | .frame raw rows => .sample (BitVec.ofNat 16 raw) :: rowsFrom 0 rows ++ [.present]

/-- The words a line puts on the port (R72). -/
def ScriptLine.words (c : Config) (l : ScriptLine) : List Word :=
  match l with
  | .word w => [BitVec.ofNat 32 w]
  | other => (other.commands c).flatMap encode

/-- The words of a script. -/
def scriptWords (c : Config) (script : List ScriptLine) : List Word := script.flatMap (ScriptLine.words c)

/-! ### The text -/

/-- What a line of text is. -/
inductive Parsed where
  /-- Nothing, or only a comment. -/
  | blank
  | line (l : ScriptLine)
  | malformed
  deriving DecidableEq, Repr

/-- The text without the blanks at its two ends. -/
def trimBlanks (cs : List Char) : List Char := ((cs.dropWhile Char.isWhitespace).reverse.dropWhile Char.isWhitespace).reverse

/-- The value of a digit in base 10 or 16. -/
def digitOf (base : Nat) (ch : Char) : Option Nat :=
  let v := if '0' ≤ ch ∧ ch ≤ '9' then ch.toNat - '0'.toNat
    else if 'a' ≤ ch ∧ ch ≤ 'f' then ch.toNat - 'a'.toNat + 10
    else if 'A' ≤ ch ∧ ch ≤ 'F' then ch.toNat - 'A'.toNat + 10
    else 16
  if v < base then some v else none

/-- Digits read after the value `acc`. -/
def digitsFrom (base acc : Nat) : List Char → Option Nat
  | [] => some acc
  | ch :: cs =>
    match digitOf base ch with
    | some d => digitsFrom base (acc * base + d) cs
    | none => none

/-- A number: decimal, or hexadecimal with `0x` (R72). -/
def numberOf (cs : List Char) : Option Nat :=
  match cs with
  | '0' :: 'x' :: ch :: rest => digitsFrom 16 0 (ch :: rest)
  | ch :: rest => digitsFrom 10 0 (ch :: rest)
  | [] => none

/-- A row: containers separated by spaces inside square brackets (R72). -/
def bracketedRow (cs : List Char) : Option (List Nat) :=
  match cs, cs.getLast? with
  | '[' :: rest, some ']' => ((rest.dropLast.splitOn ' ').filter (fun w => !w.isEmpty)).mapM numberOf
  | _, _ => none

/-- A mnemonic and its operands, as one line (R72, R73). -/
def lineOf (mnemonic : String) (operands : List (List Char)) : Option ScriptLine :=
  match mnemonic, operands with
  | "INIT", [] => some .init
  | "RESOLVE", [i] => (numberOf i).map .resolve
  | "SCANLINE", [l, r] => (numberOf l).bind (fun line => (bracketedRow r).map (.scanline line))
  | "PRESENT", [] => some .present
  | "SAMPLE", [r] => (numberOf r).map .sample
  | "RDJOY", [] => some .rdjoy
  | "RDSTAT", [] => some .rdstat
  | "RDFAULT", [] => some .rdfault
  | ".word", [w] => (numberOf w).map .word
  | "FILL", [l, k] => (numberOf l).bind (fun line => (numberOf k).map (.fill line))
  | "FRAMEFILL", [k] => (numberOf k).map .frameFill
  | "FRAME", r :: rows => (numberOf r).bind (fun raw => (rows.mapM bracketedRow).map (.frame raw))
  | _, _ => none

/-- Reads one line of text: a comment starts at `;`, operands are separated by commas (R72). -/
def readLine (c : Config) (text : List Char) : Parsed :=
  match trimBlanks (text.takeWhile (fun ch => ch != ';')) with
  | [] => .blank
  | ch :: cs =>
    let mnemonic := String.ofList ((ch :: cs).takeWhile (fun x => !x.isWhitespace))
    let rest := trimBlanks ((ch :: cs).dropWhile (fun x => !x.isWhitespace))
    let operands := if rest.isEmpty then [] else (rest.splitOn ',').map trimBlanks
    match lineOf mnemonic operands with
    | some l => if l.wf c then .line l else .malformed
    | none => .malformed

end Sys2Proof.Machine
end

