-- ==== Sys2Proof/Safety.lean ====
section
/-! DEFINITION. What counts as a sound state and a sound run, in the words the statements use: the invariant of every
step, the window of a slot, the opcode table as rows, the protocol table of 42_framesync.md R105, runs that count
completed PRESENTs. -/

namespace Sys2Proof.Machine

/-- The level law (43_input.md R120 L-b): a button's joypad bit is 0 exactly when one of its raw inputs is held. -/
def LevelLaw (s : State) : Prop :=
  ∀ btn : Button, s.joypad.getLsbD (s.cfg.joyBit.pos btn).val = !anyWithRole s.cfg (.button btn) s.rawCur

/-- The invariant every step keeps, from every state that meets it. -/
structure Inv (s : State) : Prop where
  /-- The configuration is well formed (00_scope.md R5). -/
  cfg_wf : s.cfg.wf = true
  /-- `PAL[i] = PALETTE[i]` (10_state.md R13). -/
  palette_fixed : s.pal = s.cfg.palette
  /-- The frame store is in canonical form (log 2). -/
  store_wf : s.memW.wf s.cfg s.inited = true
  /-- Between commands the two views agree (20_memory.md R47). -/
  views_agree : s.memD = s.memW
  /-- `LINE_NEXT` is 0 to H (R17). -/
  line_le : s.lineNext.toNat ≤ s.cfg.h
  /-- (I-b): with `PEND = 0` the display reads the front slot (R29). -/
  swap_gate : s.pend = false → s.scan = s.back.other
  /-- PRESENT waits only with a complete frame on a working block (42_framesync.md R97). -/
  waiting_frame : s.pend = true → s.inited = true ∧ s.faulted = false ∧ s.lineNext.toNat = s.cfg.h
  /-- `FCAUSE` is 0 when no fault was taken and 1 to 6 after one (R20, 60_exceptions.md R130). -/
  cause_code : (s.faulted = false ↔ s.fcause = 0) ∧ s.fcause ≠ 7
  /-- `FCMD` is 0 when no fault was taken (R21). -/
  no_command_recorded : s.faulted = false → s.fcmd = 0
  /-- Before INIT: slot A is back, no line is written, the frame store has no value (R18, R30). -/
  before_init : s.inited = false → s.back = .A ∧ s.lineNext = 0 ∧ s.memW = []
  /-- The level law of the input mapper (43_input.md R120). -/
  level_law : LevelLaw s

/-- Address `a` is a byte of scanline `line` in slot `slot` (41_compositor.md R87). -/
def InRow (c : Config) (slot : Slot) (line a : Nat) : Prop :=
  c.rowAddr slot line ≤ a ∧ a < c.rowAddr slot line + c.rowBytes

/-- Address `a` is a byte of the window of slot `slot` (20_memory.md R42, R56). -/
def InWindow (c : Config) (slot : Slot) (a : Nat) : Prop := ∃ line, line < c.h ∧ InRow c slot line a

/-- The byte at `a` reads the same in both views of two states. -/
def ReadsSame (s t : State) (a : Nat) : Prop := t.writerByte a = s.writerByte a ∧ t.displayByte a = s.displayByte a

/-- The mnemonic of a command (30_encoding.md R66). -/
def mnemonicOf : Instr → String
  | .init => "INIT"
  | .resolve _ => "RESOLVE"
  | .scanline _ _ => "SCANLINE"
  | .present => "PRESENT"
  | .sample _ => "SAMPLE"
  | .rdjoy => "RDJOY"
  | .rdstat => "RDSTAT"
  | .rdfault => "RDFAULT"

/-- One row of the opcode table of R66. -/
structure OpcodeRow where
  mnemonic : String
  pattern : Word
  mask : Word
  deriving DecidableEq, Repr

/-- The opcode table of R66: `match` (here `pattern`) and `mask`. -/
def opcodeTable : List OpcodeRow :=
  [⟨"INIT", 0x10000000, 0xFFFFFFFF⟩, ⟨"RESOLVE", 0x20000000, 0xFFFFFF00⟩, ⟨"SCANLINE", 0x30000000, 0xFFFFFF00⟩,
   ⟨"PRESENT", 0x40000000, 0xFFFFFFFF⟩, ⟨"SAMPLE", 0x50000000, 0xFFFF0000⟩, ⟨"RDJOY", 0x60000000, 0xFFFFFFFF⟩,
   ⟨"RDSTAT", 0x70000000, 0xFFFFFFFF⟩, ⟨"RDFAULT", 0x80000000, 0xFFFFFFFF⟩]

/-- The must-be-zero bits of the format that `OPC` selects (R61 to R65); none for a reserved `OPC`. -/
def mbzMask (op : BitVec 4) : Word :=
  match op.toNat with
  | 0x1 => 0x0FFFFFFF
  | 0x2 => 0x0FFFFF00
  | 0x3 => 0x0FFFFF00
  | 0x4 => 0x0FFFFFFF
  | 0x5 => 0x0FFF0000
  | 0x6 => 0x0FFFFFFF
  | 0x7 => 0x0FFFFFFF
  | 0x8 => 0x0FFFFFFF
  | _ => 0

/-- The table of R105: from a position, a well-formed command leads to a position, raising a fault or none. At W nothing
is accepted; at X the position stays. -/
def protocolTable (c : Config) : Position → Instr → Position × Option Cause
  | .uninitialised, .init => (.inFrame 0, none)
  | .uninitialised, .scanline _ _ => (.faulted, some .notInit)
  | .uninitialised, .present => (.faulted, some .notInit)
  | .inFrame _, .init => (.faulted, some .reinit)
  | .inFrame k, .scanline line _ =>
    if line.toNat = k then (if k + 1 = c.h then (.frameComplete, none) else (.inFrame (k + 1), none))
    else if c.h ≤ line.toNat then (.faulted, some .lineRange)
    else (.faulted, some .lineOrder)
  | .inFrame _, .present => (.faulted, some .presentEarly)
  | .frameComplete, .init => (.faulted, some .reinit)
  | .frameComplete, .scanline line _ =>
    if c.h ≤ line.toNat then (.faulted, some .lineRange) else (.faulted, some .lineOrder)
  | .frameComplete, .present => (.presentWaiting, none)
  | p, _ => (p, none)

/-- The states of an instance with configuration `c` that steps reach from reset, whatever words the command master lines
up, whatever the schedule and whether or not the display is fair (00_scope.md R2; log 5, 7). -/
inductive Reachable (c : Config) : State → Prop where
  | reset (ws : List Word) (ts : List Turn) (fair : Bool) :
    Reachable c { State.resetOf c with port := ws, sched := ts, displayFair := fair }
  | step {s t : State} : Reachable c s → step s = .next t → Reachable c t

/-- A step at which PRESENT completes: the block's turn, `PEND = 1`, `SCAN = BACK` (R100). -/
def State.completesPresent (s : State) : Bool := s.turnOf == .block && s.pend && s.scan == s.back

/-- `CountedRun s k t`: steps without a reset lead from `s` to `t`, and PRESENT completes in k of them. -/
inductive CountedRun (s : State) : Nat → State → Prop where
  | start : CountedRun s 0 s
  | next {k : Nat} {t u : State} :
    CountedRun s k t → t.resetDue = false → step t = .next u → CountedRun s (if t.completesPresent then k + 1 else k) u

/-- Slot `slot` after k exchanges of the roles. -/
def slotAfter (k : Nat) (slot : Slot) : Slot := if k % 2 = 0 then slot else slot.other

end Sys2Proof.Machine
end

