-- ==== Sys2Proof/Certificates/Slice0/Obligations.lean ====
section
/-! DEFINITION. The statements for the provers. Each docstring names the rule of spec/ it formalises. -/

open Sys2Proof Sys2Proof.Machine

/-! ### Encoding and framing -/

/-- 30_encoding.md R61 to R66: the words of the eight commands, written out bit by bit, decode to them. -/
def Obligations.SpecWordsDecode : Prop :=
  decodeTableWord 32 0b0001_0000_0000_0000_0000_0000_0000_0000 = some .init ∧
  decodeTableWord 32 0b0010_0000_0000_0000_0000_0000_1000_0010 = some (.resolve 0x82) ∧
  decode Config.tiny [0b0011_0000_0000_0000_0000_0000_0000_0001, 0b0000_0011_0000_0010_0000_0001_0000_0000]
    = .command (.scanline 1 [0x03020100]) [] ∧
  decodeTableWord 32 0b0100_0000_0000_0000_0000_0000_0000_0000 = some .present ∧
  decodeTableWord 32 0b0101_0000_0000_0000_1000_0000_0000_0001 = some (.sample 0x8001) ∧
  decodeTableWord 32 0b0110_0000_0000_0000_0000_0000_0000_0000 = some .rdjoy ∧
  decodeTableWord 32 0b0111_0000_0000_0000_0000_0000_0000_0000 = some .rdstat ∧
  decodeTableWord 32 0b1000_0000_0000_0000_0000_0000_0000_0000 = some .rdfault

/-- Every well-formed command, whatever its operands, decodes from its words, and what follows is left. -/
def Obligations.DecodeOfEncode : Prop :=
  ∀ (c : Config) (i : Instr) (rest : List Word), i.wf c = true → decode c (encode i ++ rest) = .command i rest

/-- Words that decode to a command are the words of that command, which is well formed. -/
def Obligations.EncodeOfDecode : Prop :=
  ∀ (c : Config) (ws : List Word) (i : Instr) (rest : List Word),
    decode c ws = .command i rest → ws = encode i ++ rest ∧ i.wf c = true

/-- R66: a header is the named command, well formed, exactly when `W & mask = match`. -/
def Obligations.HeaderMatchesItsRow : Prop :=
  ∀ (c : Config) (h : Word) (t : List Word), frameLength c h ≤ t.length + 1 →
    ∀ row ∈ opcodeTable,
      (h &&& row.mask = row.pattern ↔ ∃ i rest, decode c (h :: t) = .command i rest ∧ mnemonicOf i = row.mnemonic)

/-- R69: a header is illegal exactly when its `OPC` is 0x0 or 0x9 to 0xF or a must-be-zero bit of its format is 1, every
other header is a command, and an illegal header's only effect is the fault ILLEGAL_CMD (on a block not yet faulted). -/
def Obligations.IllegalHeadersAreReservedOrNonzeroMbz : Prop :=
  ∀ (c : Config) (h : Word) (t : List Word), frameLength c h ≤ t.length + 1 →
    ((∃ why rest, decode c (h :: t) = .illegal h why rest) ↔
      (opcode h = 0 ∨ 9 ≤ (opcode h).toNat ∨ h &&& mbzMask (opcode h) ≠ 0)) ∧
    ((∃ why rest, decode c (h :: t) = .illegal h why rest) ∨ (∃ i rest, decode c (h :: t) = .command i rest)) ∧
    (∀ s : State, s.faulted = false → s.illegalCommand h =
      { s with faulted := true, fcause := 1, fcmd := h, responses := ⟨true, 1⟩ :: s.responses }) ∧
    (∃ why rest, decode c [0x00000000] = .illegal 0x00000000 why rest) ∧
    (∃ why rest, decode c [0xFFFFFFFF] = .illegal 0xFFFFFFFF why rest)

/-- R60: the words consumed are decided by `OPC` alone: `1 + ceil(N/4)` for `OPC = 0x3` and one for every other value,
whether the header is legal or not, whether the command faults, whether the block is already faulted. -/
def Obligations.FramingConsumesByOpcodeAlone : Prop :=
  ∀ (s : State) (h : Word) (t : List Word),
    s.cfg.wf = true → s.pend = false → s.turnOf = .block → s.port = h :: t →
    (h.extractLsb' 28 4 = 0x3 → (s.cfg.n + 3) / 4 ≤ t.length →
      ∃ u, step s = .next u ∧ u.port = t.drop ((s.cfg.n + 3) / 4)) ∧
    (h.extractLsb' 28 4 ≠ 0x3 → ∃ u, step s = .next u ∧ u.port = t)

/-- R63: raw pixel x is the container in bits [8*(x mod 4)+7 : 8*(x mod 4)] of payload word `P[x div 4]`, and there are
exactly N of them. -/
def Obligations.RawRowComesFromPayload : Prop :=
  ∀ (c : Config) (payload : List Word), payload.length = (c.n + 3) / 4 →
    (rawRow c.n payload).length = c.n ∧
    ∀ x, x < c.n → (rawRow c.n payload)[x]? = (payload[x / 4]?).map (fun w => w.extractLsb' (8 * (x % 4)) 8)

/-- R64: bits [7:2] of a container are ignored, whatever they hold: RESOLVE and SCANLINE do what they do on the containers
masked to two bits, and no setting of those bits makes either command illegal. -/
def Obligations.ContainersAreMaskedToTwoBits : Prop :=
  (∀ (idx : Byte) (s : State), exec (.resolve idx) s = exec (.resolve (idx &&& 0b11)) s) ∧
  (∀ (line : Byte) (payload : List Word) (s : State),
    exec (.scanline line payload) s = exec (.scanline line (payload.map (fun w => w &&& 0x03030303))) s) ∧
  (∀ (c : Config) (idx : Byte), decode c [0x20000000 ||| idx.setWidth 32] = .command (.resolve idx) []) ∧
  (∀ (c : Config) (line : Byte) (payload : List Word), payload.length = (c.n + 3) / 4 →
    decode c ((0x30000000 ||| line.setWidth 32) :: payload) = .command (.scanline line payload) [])

/-- 30_encoding.md R73: `FILL line, c` is a SCANLINE of that line whose row is N copies of container c. -/
def Obligations.FillIsUniformScanline : Prop :=
  ∀ (c : Config) (line container : Nat) (rest : List Word), line < 256 → container < 256 →
    ∃ payload, decode c ((ScriptLine.fill line container).words c ++ rest) = .command (.scanline (BitVec.ofNat 8 line) payload) rest ∧
      rawRow c.n payload = List.replicate c.n (BitVec.ofNat 8 container)

/-! ### Steps, turns, reset -/

/-- A step runs the decoded command: on the block's turn with `PEND = 0`, step is exec of what the port decodes to, on the
state with those words taken and the turn used up. -/
def Obligations.StepRunsDecodedCommand : Prop :=
  ∀ (s : State) (i : Instr) (rest : List Word),
    s.cfg.wf = true → s.pend = false → s.turnOf = .block → decode s.cfg s.port = .command i rest →
    step s = exec i { s with port := rest, sched := s.sched.tail }

/-- R67 step 2: the step on an illegal header: refused by a faulted block, else the fault entry with ILLEGAL_CMD; its
framed words are consumed. -/
def Obligations.StepAnswersIllegalHeader : Prop :=
  ∀ (s : State) (h : Word) (why : Reject) (rest : List Word),
    s.cfg.wf = true → s.pend = false → s.turnOf = .block → decode s.cfg s.port = .illegal h why rest →
    step s = .next
      (if s.faulted then
        { s with port := rest, sched := s.sched.tail, responses := ⟨true, s.fcause.setWidth 32⟩ :: s.responses }
      else
        { s with port := rest, sched := s.sched.tail, faulted := true, fcause := 1, fcmd := h,
                 responses := ⟨true, 1⟩ :: s.responses })

/-- R75 and log 5: with no whole command at the port the block idles; nothing but the used-up turn changes. -/
def Obligations.IdleBlockKeepsItsState : Prop :=
  ∀ s : State, s.cfg.wf = true → s.pend = false → s.turnOf = .block →
    (s.port = [] ∨ ∃ h t, s.port = h :: t ∧ h.extractLsb' 28 4 = 0x3 ∧ t.length < (s.cfg.n + 3) / 4) →
    step s = .next { s with sched := s.sched.tail }

/-- 70_reset_and_hazards.md R150, R151: reset, between commands, while PRESENT waits or inside a command, leads from every
state, a faulted one included, to the reset value of every register, without a response; no byte of the frame store has
a value afterwards (log 3), and the port is ready. Inside a command, that command's words are gone (log 9, 18). -/
def Obligations.ResetRestoresEveryRegister : Prop :=
  ∀ s : State, s.cfg.wf = true → s.resetDue = true →
    ∃ t, step s = .next t ∧ t.cfg = s.cfg ∧ t.pal = s.cfg.palette ∧ t.back = .A ∧ t.scan = .B ∧ t.pend = false ∧
      t.lineNext = 0 ∧ t.inited = false ∧ t.faulted = false ∧ t.fcause = 0 ∧ t.fcmd = 0 ∧ t.exitFlag = false ∧
      t.rawCur = 0 ∧ t.rawPrev = 0 ∧ t.joypad = 0xFF ∧ t.responses = s.responses ∧
      (∀ a, t.writerByte a = none ∧ t.displayByte a = none) ∧
      (∀ i rest, s.turnOf = .resetInCommand → s.pend = false → decode s.cfg s.port = .command i rest →
        t.port = portAfterReset s.cfg rest)

/-- 10_state.md R30 for the machine's own reset state: `STATUS` reads 0x00004000, and the joypad, the fault register and
the frame store are as R30 says. -/
def Obligations.ResetStateReadsAsSpecified : Prop :=
  exec .rdstat State.reset = .next { State.reset with responses := [⟨false, 0x00004000⟩] } ∧
  exec .rdjoy State.reset = .next { State.reset with responses := [⟨false, 0x000000FF⟩] } ∧
  exec .rdfault State.reset = .next { State.reset with responses := [⟨false, 0x00000000⟩] } ∧
  State.reset.rawCur = 0 ∧ State.reset.rawPrev = 0 ∧ State.reset.pal = State.reset.cfg.palette ∧
  ∀ a, State.reset.writerByte a = none ∧ State.reset.displayByte a = none

/-- Nothing stops the machine: in a well-formed configuration every step from every state answers a next state. In
particular no command writes outside the slots, and every header value is a command or a fault. -/
def Obligations.EveryStepAnswersNext : Prop :=
  ∀ s : State, s.cfg.wf = true → ∃ t, step s = .next t

/-- The invariant holds right after reset, in every well-formed configuration. -/
def Obligations.InvariantHoldsAtReset : Prop :=
  Inv State.reset ∧ ∀ c : Config, c.wf = true → Inv (State.resetOf c)

/-- Every step keeps the invariant. -/
def Obligations.StepKeepsInvariant : Prop :=
  ∀ s t : State, Inv s → step s = .next t → Inv t

/-- 00_scope.md R4, 10_state.md R13: no step changes the configuration, and `PAL` holds `PALETTE` in every state reached
from reset. -/
def Obligations.ConfigurationAndPaletteNeverChange : Prop :=
  (∀ s t : State, step s = .next t → t.cfg = s.cfg ∧ (s.pal = s.cfg.palette → t.pal = t.cfg.palette)) ∧
  (∀ (c : Config) (s : State), Reachable c s → s.cfg = c ∧ s.pal = c.palette)

/-- 10_state.md R29: in every state reached from reset exactly one slot is back and the other front; with `PEND = 0` the
display reads the front slot; with `PEND = 1` it reads one of the two. -/
def Obligations.ReachableStatesKeepTheSwapGate : Prop :=
  ∀ (c : Config) (s : State), c.wf = true → Reachable c s →
    (s.front ≠ s.back ∧ (s.front = .A ∨ s.back = .A) ∧ (s.front = .B ∨ s.back = .B)) ∧
    (s.pend = false → s.scan = s.front) ∧ (s.pend = true → s.scan = s.front ∨ s.scan = s.back)

/-- 10_state.md R18, R19, R20, R21, R22: until reset, `INITED`, `FAULTED` and `EXIT` stay 1 once they are 1, and the first
fault's `FCAUSE` and `FCMD` are kept. -/
def Obligations.FlagsAreStickyUntilReset : Prop :=
  ∀ s t : State, s.resetDue = false → step s = .next t →
    (s.inited = true → t.inited = true) ∧ (s.exitFlag = true → t.exitFlag = true) ∧
    (s.faulted = true → t.faulted = true ∧ t.fcause = s.fcause ∧ t.fcmd = s.fcmd)

/-! ### Responses and faults -/

/-- R68: a command answers exactly one response when it is done (PRESENT only when it completes); `err = 1` carries the
code of the first fault, and INIT, SCANLINE and PRESENT answer (0, 0) when they are executed. -/
def Obligations.OneResponsePerCommand : Prop :=
  ∀ (i : Instr) (s t : State), exec i s = .next t →
    (i = .present ∧ t.pend = true ∧ t.responses = s.responses) ∨
    (∃ r, t.responses = r :: s.responses ∧ (r.err = true → r.data = t.fcause.setWidth 32) ∧
      (r.err = false → i = .init ∨ i = .present ∨ (∃ line payload, i = .scanline line payload) → r.data = 0))

/-- 60_exceptions.md R131: the fault entry writes `FAULTED`, `FCAUSE` and `FCMD` (the command's header word), responds
(1, cause) and changes nothing else, whichever command takes it. -/
def Obligations.FaultEntryChangesOnlyFaultRegisters : Prop :=
  (∀ (i : Instr) (s t : State), s.faulted = false → exec i s = .next t → t.faulted = true →
    ∃ cause : Cause, t = { s with faulted := true, fcause := cause.code, fcmd := (encode i).headD 0,
                                  responses := ⟨true, cause.code.setWidth 32⟩ :: s.responses }) ∧
  (∀ (h : Word) (s : State), s.faulted = false →
    s.illegalCommand h = { s with faulted := true, fcause := Cause.illegalCmd.code, fcmd := h,
                                  responses := ⟨true, Cause.illegalCmd.code.setWidth 32⟩ :: s.responses })

/-- R132: of several fault conditions the first in the spec's order is the one reported, with the codes of R130. -/
def Obligations.FaultPriority : Prop :=
  (∀ s : State, s.faulted = false → s.inited = true → ∃ t, exec .init s = .next t ∧ t.faulted = true ∧ t.fcause = 3) ∧
  (∀ (line : Byte) (payload : List Word) (s : State), s.faulted = false →
    (s.inited = false → ∃ t, exec (.scanline line payload) s = .next t ∧ t.faulted = true ∧ t.fcause = 2) ∧
    (s.inited = true → s.cfg.h ≤ line.toNat →
      ∃ t, exec (.scanline line payload) s = .next t ∧ t.faulted = true ∧ t.fcause = 4) ∧
    (s.inited = true → line.toNat < s.cfg.h → line ≠ s.lineNext →
      ∃ t, exec (.scanline line payload) s = .next t ∧ t.faulted = true ∧ t.fcause = 5)) ∧
  (∀ s : State, s.faulted = false → s.pend = false →
    (s.inited = false → ∃ t, exec .present s = .next t ∧ t.faulted = true ∧ t.fcause = 2) ∧
    (s.inited = true → s.lineNext.toNat ≠ s.cfg.h → ∃ t, exec .present s = .next t ∧ t.faulted = true ∧ t.fcause = 6)) ∧
  (∀ (s : State) (h : Word) (why : Reject) (rest : List Word),
    s.cfg.wf = true → s.pend = false → s.faulted = false → s.turnOf = .block → decode s.cfg s.port = .illegal h why rest →
    ∃ t, step s = .next t ∧ t.faulted = true ∧ t.fcause = 1)

/-- 60_exceptions.md R133: once `FAULTED = 1`, INIT, SCANLINE, PRESENT, SAMPLE and malformed headers are refused with
`FCAUSE` and no effect (the words are consumed, PRESENT does not wait); RESOLVE, RDJOY, RDSTAT and RDFAULT are answered as
usual; nothing else of the state changes. The last case, no whole command at the port, is the idle step: the model's
choice (DESIGN CHOICE, log 5), no part of R133. -/
def Obligations.FaultedBlockRefuses : Prop :=
  ∀ s t : State, s.faulted = true → s.pend = false → s.turnOf = .block → step s = .next t →
    (∃ i rest, decode s.cfg s.port = .command i rest ∧
      (i = .init ∨ i = .present ∨ (∃ line payload, i = .scanline line payload) ∨ (∃ raw, i = .sample raw)) ∧
      t = { s with port := rest, sched := s.sched.tail, responses := ⟨true, s.fcause.setWidth 32⟩ :: s.responses }) ∨
    (∃ h why rest, decode s.cfg s.port = .illegal h why rest ∧
      t = { s with port := rest, sched := s.sched.tail, responses := ⟨true, s.fcause.setWidth 32⟩ :: s.responses }) ∨
    (∃ i rest data, decode s.cfg s.port = .command i rest ∧
      ((∃ idx, i = .resolve idx ∧ data = resolve s.pal idx) ∨ (i = .rdjoy ∧ data = s.joypad.setWidth 32) ∨
        (i = .rdstat ∧ data = s.statusWord) ∨ (i = .rdfault ∧ data = s.fcmd)) ∧
      t = { s with port := rest, sched := s.sched.tail, responses := ⟨false, data⟩ :: s.responses }) ∨
    (∃ why, decode s.cfg s.port = .waiting why ∧ t = { s with sched := s.sched.tail })

/-- 42_framesync.md R105: for every protocol position but W (which accepts no command) and every well-formed command, the next position and the
fault raised are the table's. -/
def Obligations.PositionsFollowProtocolTable : Prop :=
  ∀ (i : Instr) (s : State), Inv s → i.wf s.cfg = true → s.position ≠ .presentWaiting →
    ∃ t, exec i s = .next t ∧ t.position = (protocolTable s.cfg s.position i).1 ∧
      (match (protocolTable s.cfg s.position i).2 with
       | some cause => s.faulted = false ∧ t.faulted = true ∧ t.fcause = cause.code
       | none => t.faulted = s.faulted ∧ t.fcause = s.fcause)

/-! ### The palette -/

/-- 40_palette.md R81: RESOLVE answers entry `IDX8 mod 4` of the palette, in every state, and changes nothing. -/
def Obligations.ResolveAnswersPaletteEntry : Prop :=
  ∀ (idx : Byte) (s : State), exec (.resolve idx) s = .next { s with responses := ⟨false,
    (if idx.toNat % 4 = 0 then s.pal.p0 else if idx.toNat % 4 = 1 then s.pal.p1
     else if idx.toNat % 4 = 2 then s.pal.p2 else s.pal.p3)⟩ :: s.responses }

/-! ### The compositor and the frame store -/

/-- 41_compositor.md R85, R86, R87, R90: in a well-formed configuration, an initialised block that is not faulted executes
the SCANLINE of the next line: it responds (0, 0), `LINE_NEXT` is `LINE + 1`, and byte k of pixel x of that line, in the
slot that is back, is byte k (little-endian) of the palette entry of container x, in what the block wrote and in what the
display sees. -/
def Obligations.ScanlineWritesExpandedRow : Prop :=
  ∀ (line : Byte) (payload : List Word) (s : State),
    s.cfg.wf = true → s.faulted = false → s.inited = true → line = s.lineNext → line.toNat < s.cfg.h →
    payload.length = (s.cfg.n + 3) / 4 →
    ∃ t, exec (.scanline line payload) s = .next t ∧
      t.lineNext.toNat = line.toNat + 1 ∧ t.responses = ⟨false, 0⟩ :: s.responses ∧
      ∀ x k, x < s.cfg.n → k < s.cfg.pixBytes → ∀ w, payload[x / 4]? = some w →
        t.writerByte (s.cfg.bufBase s.back + s.cfg.pixBytes * (s.cfg.baseOff + s.cfg.stride * line.toNat + x) + k)
          = some ((s.pal.get (w.extractLsb' (8 * (x % 4)) 2)).extractLsb' (8 * k) 8) ∧
        t.displayByte (s.cfg.bufBase s.back + s.cfg.pixBytes * (s.cfg.baseOff + s.cfg.stride * line.toNat + x) + k)
          = some ((s.pal.get (w.extractLsb' (8 * (x % 4)) 2)).extractLsb' (8 * k) 8)

/-- R89: whatever a SCANLINE does, every byte outside its `N*PIX_BYTES` bytes in the slot that is back keeps its value in
both views, and of the registers only `LINE_NEXT` changes, or on a fault `FAULTED`, `FCAUSE`, `FCMD`; a SCANLINE that
faults or is refused changes no byte at all. -/
def Obligations.ScanlineChangesOnlyItsRow : Prop :=
  ∀ (line : Byte) (payload : List Word) (s t : State), payload.length = (s.cfg.n + 3) / 4 →
    exec (.scanline line payload) s = .next t →
    (∀ a, ¬ InRow s.cfg s.back line.toNat a → ReadsSame s t a) ∧
    ((t = { s with memW := t.memW, memD := t.memD, lineNext := line + 1, responses := ⟨false, 0⟩ :: s.responses } ∧
        line = s.lineNext ∧ s.faulted = false) ∨
     (t = { s with faulted := true, fcause := t.fcause, fcmd := t.fcmd, responses := t.responses } ∧
        ∀ a, ReadsSame s t a))

/-- 20_memory.md R42, R44, 41_compositor.md R91: in a well-formed configuration every pixel of every scanline lies in one
surface row, inside its visible part and inside its slot, at an aligned address, below `2^ADDR_W`. -/
def Obligations.RowsStayInsideTheirSlot : Prop :=
  ∀ (c : Config) (slot : Slot) (line x : Nat), c.wf = true → line < c.h → x < c.n →
    (c.baseOff + c.stride * line + x) / c.stride = c.baseOff / c.stride + line ∧
    (c.baseOff + c.stride * line + x) % c.stride = c.baseOff % c.stride + x ∧
    c.baseOff % c.stride + x < c.surfW ∧ c.baseOff / c.stride + line < c.surfH ∧
    c.bufBase slot ≤ c.pixAddr slot line x ∧
    c.pixAddr slot line x + c.pixBytes ≤ c.bufBase slot + c.pixBytes * (c.stride * c.surfH) ∧
    c.pixAddr slot line x + c.pixBytes ≤ 2 ^ c.addrW ∧ c.pixAddr slot line x % c.pixBytes = 0

/-- 41_compositor.md R85 and 20_memory.md R48: the meaning of SCANLINE reads, at every byte of both views, as the
pseudocode's pixel writes done one at a time in any order, followed by the flush. -/
def Obligations.ScanlineAgreesWithPixelLoop : Prop :=
  ∀ (line : Byte) (payload : List Word) (s t : State) (xs : List Nat),
    s.cfg.wf = true → s.faulted = false → s.inited = true → line = s.lineNext → line.toNat < s.cfg.h →
    payload.length = (s.cfg.n + 3) / 4 → xs.Perm (List.range s.cfg.n) → exec (.scanline line payload) s = .next t →
    ∀ a, ReadsSame (scanlineByPixels line.toNat payload xs s) t a

/-- 42_framesync.md R104, 20_memory.md R48, R50: after INIT no step but a reset changes, in either view, a byte of the slot
the display is reading, and while the step runs the display can read there only what it could read before it. -/
def Obligations.DisplayedSlotIsNeverWritten : Prop :=
  ∀ s t : State, Inv s → s.inited = true → s.resetDue = false → step s = .next t →
    ∀ a, s.cfg.inSlot s.scan a = true →
      ReadsSame s t a ∧ ∀ b, displayMayReadDuring s t a b = s.displayMayRead a b

/-- 20_memory.md R56: before INIT no byte has a value; a successful INIT leaves the background in every byte of both slots;
after that, until reset, a byte changes only by an executed SCANLINE, and only inside that line's row in the slot that is
back, so bytes outside the window never change again. -/
def Obligations.FrameStoreChangesOnlyByScanline : Prop :=
  ∀ s : State, Inv s →
    (s.inited = false → ∀ a, s.writerByte a = none ∧ s.displayByte a = none) ∧
    (∀ t, s.inited = false → s.faulted = false → exec .init s = .next t →
      ∀ a, s.cfg.inSlots a = true → t.writerByte a = backgroundByte s.cfg a ∧ t.displayByte a = backgroundByte s.cfg a) ∧
    (∀ t, s.inited = true → s.resetDue = false → step s = .next t → ∀ a,
      ReadsSame s t a ∨
      (∃ line payload rest, decode s.cfg s.port = .command (.scanline line payload) rest ∧ s.turnOf = .block ∧
        s.pend = false ∧ InRow s.cfg s.back line.toNat a ∧ InWindow s.cfg s.back a))

/-- 20_memory.md R49: in every state that meets the invariant, after INIT, a display read inside slot `SCAN` returns the
one byte both views hold there; outside it the display reads nothing. -/
def Obligations.DisplayReadsTheByteWritten : Prop :=
  ∀ (s : State) (a : Nat), Inv s → s.inited = true →
    (s.cfg.inSlot s.scan a = true → ∃ v, s.writerByte a = some v ∧ ∀ b, s.displayMayRead a b = true ↔ b = v) ∧
    (s.cfg.inSlot s.scan a = false → ∀ b, s.displayMayRead a b = false)

/-! ### The frame synchronizer -/

/-- 42_framesync.md R95: the first INIT on a block that is not faulted makes slot A back and slot B displayed, writes every
byte of both slots in both views to the background pattern, and changes no other register and no byte outside the slots. -/
def Obligations.InitEstablishesInitialState : Prop :=
  ∀ s : State, s.faulted = false → s.inited = false →
    ∃ t, exec .init s = .next t ∧
      t = { s with back := .A, scan := .B, pend := false, lineNext := 0, inited := true, memW := t.memW, memD := t.memD,
                   responses := ⟨false, 0⟩ :: s.responses } ∧
      (∀ a, s.cfg.inSlots a = true → t.writerByte a = backgroundByte s.cfg a ∧ t.displayByte a = backgroundByte s.cfg a) ∧
      (∀ a, s.cfg.inSlots a = false → ReadsSame s t a) ∧
      (s.cfg.wf = true → ∀ (slot : Slot) (p k : Nat), p < s.cfg.stride * s.cfg.surfH → k < s.cfg.pixBytes →
        t.displayByte (s.cfg.bufBase slot + s.cfg.pixBytes * p + k) = some (s.cfg.bg.extractLsb' (8 * k) 8))

/-- R95: the meaning of INIT reads, at every byte of both views, as the pseudocode's pixel loops over both slots followed
by the two flushes. -/
def Obligations.InitAgreesWithPixelLoop : Prop :=
  ∀ s t : State, s.cfg.wf = true → s.faulted = false → s.inited = false → exec .init s = .next t →
    ∀ a, ReadsSame (initByPixels s) t a

/-- R98: PRESENT of a complete frame submits it: `PEND` is 1, nothing else changes, no response yet, and every byte of the
submitted slot is clean. -/
def Obligations.PresentSubmitsCompleteFrame : Prop :=
  ∀ s : State, s.pend = false → s.faulted = false → s.inited = true → s.lineNext.toNat = s.cfg.h →
    exec .present s = .next { s with pend := true } ∧ (Inv s → ∀ a, s.cfg.inSlot s.back a = true → s.clean a = true)

/-- R99, R145: while PRESENT waits, no command is accepted, and only the display's accept step can change anything, namely
`SCAN`; the block's turns hold. -/
def Obligations.WaitingPresentChangesOnlyScan : Prop :=
  ∀ s : State, s.cfg.wf = true → s.pend = true → s.scan ≠ s.back →
    (s.turnOf = .block → step s = .next { s with sched := s.sched.tail }) ∧
    (s.turnOf = .display → step s = .next { s with sched := s.sched.tail, scan := s.back })

/-- R101: the display's accept step is enabled exactly when `PEND = 1` and `SCAN != BACK`; its effect is `SCAN <- BACK` and
nothing else; when `PEND = 0` the display has no step that changes the state. -/
def Obligations.DisplayAcceptStep : Prop :=
  ∀ s : State, s.cfg.wf = true → s.turnOf = .display →
    (s.pend = true → s.scan ≠ s.back → step s = .next { s with sched := s.sched.tail, scan := s.back }) ∧
    (s.pend = true → s.scan = s.back → step s = .next { s with sched := s.sched.tail }) ∧
    (s.pend = false → step s = .next { s with sched := s.sched.tail })

/-- R100: PRESENT completes exactly when `PEND = 1` and `SCAN = BACK`: the roles are exchanged, `LINE_NEXT` and `PEND` are
0, the response is (0, 0), the display reads the front slot, and the write address is that of the new back slot. With
`SCAN != BACK` it holds; with `PEND = 0` nothing of this happens. -/
def Obligations.PresentCompletesWithSwap : Prop :=
  ∀ s : State,
    (s.pend = true → s.scan = s.back →
      ∃ t, exec .present s = .next t ∧
        t = { s with back := s.back.other, lineNext := 0, pend := false, responses := ⟨false, 0⟩ :: s.responses } ∧
        t.scan = t.front ∧ t.outputs.writeBase = s.cfg.bufBase s.back.other ∧
        (s.cfg.wf = true → s.turnOf = .block → step s = .next { t with sched := s.sched.tail })) ∧
    (s.pend = true → s.scan ≠ s.back → exec .present s = .next s) ∧
    (s.pend = false → ∀ t, exec .present s = .next t → t.back = s.back ∧ t.lineNext = s.lineNext)

/-- R99, 93_implementation_defined.md V10: a display that never accepts leaves PRESENT waiting for ever, without a fault or
a response: no number of steps changes the state (log 7). -/
def Obligations.PresentHangsWithoutTheDisplay : Prop :=
  ∀ (s : State) (n : Nat),
    s.cfg.wf = true → s.pend = true → s.scan ≠ s.back → s.sched = [] → s.displayFair = false →
    Host.Core.run Sys2Proof.core n s = .next s

/-- R102: submit, accept and complete reach the state of the one-step form, with a fair display (log 7). -/
def Obligations.PresentThreeStepsReachOneStepForm : Prop :=
  ∀ (s : State) (rest : List Word),
    s.cfg.wf = true → s.pend = false → s.faulted = false → s.inited = true → s.lineNext.toNat = s.cfg.h →
    s.scan = s.back.other → s.sched = [] → s.displayFair = true → s.port = 0x40000000 :: rest →
    Host.Core.run Sys2Proof.core 3 s = .next ({ s with port := rest }).presentAtOnce

/-- R99 and log 7: however many turns the block holds, PRESENT completes at its next turn after the display's. -/
def Obligations.PresentCompletesAfterAnyWait : Prop :=
  ∀ (s : State) (n : Nat) (more : List Turn),
    s.cfg.wf = true → s.pend = true → s.scan = s.back.other →
    s.sched = List.replicate n .block ++ .display :: .block :: more →
    Host.Core.run Sys2Proof.core (n + 2) s = .next
      { s with scan := s.back, back := s.back.other, lineNext := 0, pend := false, sched := more,
               responses := ⟨false, 0⟩ :: s.responses }

/-- 10_state.md R14: a step changes `BACK` only when PRESENT completes (it then names the other slot), or to slot A, by a
reset or an INIT. -/
def Obligations.BackChangesOnlyBySwapInitOrReset : Prop :=
  ∀ s t : State, step s = .next t → t.back ≠ s.back →
    (s.completesPresent = true ∧ t.back = s.back.other) ∨
    (t.back = .A ∧ (s.resetDue = true ∨
      (s.turnOf = .block ∧ s.pend = false ∧ s.inited = false ∧ ∃ rest, decode s.cfg s.port = .command .init rest)))

/-- 42_framesync.md R103: strict alternation: after k completed PRESENTs since INIT the back slot is A for even k and B for
odd k and the other slot is front; from any other point on, they alternate from the slot that is back there; the slot
that is back after a PRESENT was front before it. -/
def Obligations.StrictAlternation : Prop :=
  (∀ (r s t : State) (k : Nat), r.inited = false → r.faulted = false → exec .init r = .next s → CountedRun s k t →
    t.back = slotAfter k .A ∧ t.front = slotAfter (k + 1) .A) ∧
  (∀ (s t : State) (k : Nat), s.inited = true → CountedRun s k t →
    t.back = slotAfter k s.back ∧ t.front = slotAfter (k + 1) s.back) ∧
  (∀ s t : State, s.completesPresent = true → step s = .next t → t.back = s.front)

/-! ### The input mapper -/

/-- 10_state.md R25: the edge sets are `RAW_CUR & ~RAW_PREV` and `RAW_PREV & ~RAW_CUR`; they never meet; SAMPLE returns
them in its response, released edges in [31:16] and pressed edges in [15:0]. -/
def Obligations.EdgeSetsAreTheBitwiseDifferences : Prop :=
  ∀ s : State, s.edgeP = s.rawCur &&& ~~~s.rawPrev ∧ s.edgeR = s.rawPrev &&& ~~~s.rawCur ∧ s.edgeP &&& s.edgeR = 0 ∧
    s.edgeP ||| s.edgeR = s.rawCur ^^^ s.rawPrev ∧
    ∀ raw t, s.faulted = false → exec (.sample raw) s = .next t →
      ∃ data, t.responses = ⟨false, data⟩ :: s.responses ∧ data.extractLsb' 16 16 = t.edgeR ∧ data.extractLsb' 0 16 = t.edgeP

/-- 43_input.md R114: SAMPLE on a block that is not faulted always succeeds; it latches the raw mask, changes of the other
registers only `JOYPAD` and `EXIT`, touches no byte of the frame store, and answers one response without error. -/
def Obligations.SampleLatchesAndAnswers : Prop :=
  ∀ (raw : BitVec 16) (s : State), s.faulted = false →
    ∃ t data, exec (.sample raw) s = .next t ∧
      t = { s with rawPrev := s.rawCur, rawCur := raw, joypad := t.joypad, exitFlag := t.exitFlag,
                   responses := ⟨false, data⟩ :: s.responses } ∧
      data.extractLsb' 0 16 = raw &&& ~~~s.rawCur ∧ data.extractLsb' 16 16 = s.rawCur &&& ~~~raw

/-- 43_input.md R115: for every button, its joypad bit becomes 0 if one of its raw inputs has a press edge, else 1 if one
has a release edge and none is still held, else it keeps its value. -/
def Obligations.SampleUpdatesEachButton : Prop :=
  ∀ (raw : BitVec 16) (s t : State), s.cfg.wf = true → s.faulted = false → exec (.sample raw) s = .next t →
    ∀ btn : Button,
      ((∃ r, r < 16 ∧ s.cfg.roleOf r = .button btn ∧ raw.getLsbD r = true ∧ s.rawCur.getLsbD r = false) →
        t.joypad.getLsbD (s.cfg.joyBit.pos btn).val = false) ∧
      ((¬ ∃ r, r < 16 ∧ s.cfg.roleOf r = .button btn ∧ raw.getLsbD r = true) →
        (∃ r, r < 16 ∧ s.cfg.roleOf r = .button btn ∧ raw.getLsbD r = false ∧ s.rawCur.getLsbD r = true) →
        t.joypad.getLsbD (s.cfg.joyBit.pos btn).val = true) ∧
      ((¬ ∃ r, r < 16 ∧ s.cfg.roleOf r = .button btn ∧ raw.getLsbD r = true ∧ s.rawCur.getLsbD r = false) →
        ((∃ r, r < 16 ∧ s.cfg.roleOf r = .button btn ∧ raw.getLsbD r = true) ∨
          ¬ ∃ r, r < 16 ∧ s.cfg.roleOf r = .button btn ∧ raw.getLsbD r = false ∧ s.rawCur.getLsbD r = true) →
        t.joypad.getLsbD (s.cfg.joyBit.pos btn).val = s.joypad.getLsbD (s.cfg.joyBit.pos btn).val)

/-- 43_input.md R118: SAMPLE sets `EXIT` exactly when it was set or the raw bit whose role is `Exit` has a press edge, and
that bit never changes `JOYPAD`: two samples that differ only in raw bits without a button leave the same joypad. -/
def Obligations.SampleSetsExitOnPressEdge : Prop :=
  ∀ (raw : BitVec 16) (s t : State), s.faulted = false → exec (.sample raw) s = .next t →
    (t.exitFlag = true ↔
      s.exitFlag = true ∨ ∃ e, e < 16 ∧ s.cfg.roleOf e = .exit ∧ raw.getLsbD e = true ∧ s.rawCur.getLsbD e = false) ∧
    ∀ raw' u, exec (.sample raw') s = .next u →
      (∀ r, r < 16 → (∃ btn, s.cfg.roleOf r = .button btn) → raw'.getLsbD r = raw.getLsbD r) → u.joypad = t.joypad

/-- 43_input.md R120 (L-a): a SAMPLE whose operand equals `RAW_CUR` has empty edge sets and changes neither `JOYPAD` nor
`EXIT`; it does write `RAW_PREV`. -/
def Obligations.SampleOfTheSameLevelsFindsNoEdge : Prop :=
  ∀ s : State, s.faulted = false →
    exec (.sample s.rawCur) s = .next { s with rawPrev := s.rawCur, responses := ⟨false, 0⟩ :: s.responses }

/-- 43_input.md R120 (L-b): in every state reached from reset, a button's joypad bit is 0 exactly when one of its raw
inputs is held. -/
def Obligations.JoypadFollowsHeldLevels : Prop :=
  ∀ (c : Config) (s : State), c.wf = true → Reachable c s → ∀ btn : Button,
    (s.joypad.getLsbD (c.joyBit.pos btn).val = false ↔
      ∃ r, r < 16 ∧ c.roleOf r = .button btn ∧ s.rawCur.getLsbD r = true)

/-- 43_input.md R119: RDJOY answers the joypad bitmask, in every state, and changes nothing. -/
def Obligations.RdjoyAnswersJoypad : Prop :=
  ∀ s : State, ∃ data, exec .rdjoy s = .next { s with responses := ⟨false, data⟩ :: s.responses } ∧
    data.extractLsb' 0 8 = s.joypad ∧ data.extractLsb' 8 24 = 0

/-! ### Status -/

/-- 44_system.md R125, 10_state.md R26: RDSTAT answers the status word, field by field, in every state, and changes
nothing. -/
def Obligations.RdstatAnswersStatusFields : Prop :=
  ∀ s : State, ∃ data, exec .rdstat s = .next { s with responses := ⟨false, data⟩ :: s.responses } ∧
    data.extractLsb' 0 8 = s.lineNext ∧ data.getLsbD 8 = s.inited ∧ data.getLsbD 9 = s.faulted ∧
    data.extractLsb' 10 3 = s.fcause ∧ data.getLsbD 13 = (s.back == .B) ∧ data.getLsbD 14 = (s.scan == .B) ∧
    data.getLsbD 15 = s.pend ∧ data.getLsbD 16 = s.exitFlag ∧ data.extractLsb' 17 15 = 0

/-- 44_system.md R126, 10_state.md R21: RDFAULT answers `FCMD` in every state and changes nothing; after a first fault it
is the header of the command that took it. -/
def Obligations.RdfaultAnswersFirstFaultingHeader : Prop :=
  (∀ s : State, exec .rdfault s = .next { s with responses := ⟨false, s.fcmd⟩ :: s.responses }) ∧
  (∀ (i : Instr) (s t : State), s.faulted = false → exec i s = .next t → t.faulted = true →
    exec .rdfault t = .next { t with responses := ⟨false, (encode i).headD 0⟩ :: t.responses })

/-- 44_system.md R127: the level outputs are the registers; each of `EXIT`, `FAULTED`, `BACK`, `SCAN` is a bit of the word
RDSTAT answers, and the write base is `BUF_BASE[BACK]`. -/
def Obligations.OutputsAreTheRegisters : Prop :=
  ∀ s t : State, exec .rdstat s = .next t →
    s.outputs = { exit := s.exitFlag, faulted := s.faulted, pend := s.pend, back := s.back, scan := s.scan,
                  writeBase := match s.back with | .A => s.cfg.bufBaseA | .B => s.cfg.bufBaseB } ∧
    ∃ data, t.responses.head? = some ⟨false, data⟩ ∧ data.getLsbD 16 = s.outputs.exit ∧
      data.getLsbD 9 = s.outputs.faulted ∧ data.getLsbD 13 = (s.outputs.back == .B) ∧
      data.getLsbD 14 = (s.outputs.scan == .B) ∧ data.getLsbD 15 = s.outputs.pend
end

