-- ==== Sys2Proof/Laws/State.lean ====
section
/-! SUPPORT. One lemma per field per update of State: what the field is after the update. Cite these rather than
unfold an update. -/

namespace Sys2Proof.Machine

variable (s : State)

/-! ### `writeBytes` -/

@[simp] theorem writeBytes_cfg (a : Nat) (bs : List Byte) : (s.writeBytes a bs).cfg = s.cfg := rfl
@[simp] theorem writeBytes_pal (a : Nat) (bs : List Byte) : (s.writeBytes a bs).pal = s.pal := rfl
@[simp] theorem writeBytes_back (a : Nat) (bs : List Byte) : (s.writeBytes a bs).back = s.back := rfl
@[simp] theorem writeBytes_scan (a : Nat) (bs : List Byte) : (s.writeBytes a bs).scan = s.scan := rfl
@[simp] theorem writeBytes_pend (a : Nat) (bs : List Byte) : (s.writeBytes a bs).pend = s.pend := rfl
@[simp] theorem writeBytes_lineNext (a : Nat) (bs : List Byte) : (s.writeBytes a bs).lineNext = s.lineNext := rfl
@[simp] theorem writeBytes_inited (a : Nat) (bs : List Byte) : (s.writeBytes a bs).inited = s.inited := rfl
@[simp] theorem writeBytes_faulted (a : Nat) (bs : List Byte) : (s.writeBytes a bs).faulted = s.faulted := rfl
@[simp] theorem writeBytes_fcause (a : Nat) (bs : List Byte) : (s.writeBytes a bs).fcause = s.fcause := rfl
@[simp] theorem writeBytes_fcmd (a : Nat) (bs : List Byte) : (s.writeBytes a bs).fcmd = s.fcmd := rfl
@[simp] theorem writeBytes_exitFlag (a : Nat) (bs : List Byte) : (s.writeBytes a bs).exitFlag = s.exitFlag := rfl
@[simp] theorem writeBytes_rawCur (a : Nat) (bs : List Byte) : (s.writeBytes a bs).rawCur = s.rawCur := rfl
@[simp] theorem writeBytes_rawPrev (a : Nat) (bs : List Byte) : (s.writeBytes a bs).rawPrev = s.rawPrev := rfl
@[simp] theorem writeBytes_joypad (a : Nat) (bs : List Byte) : (s.writeBytes a bs).joypad = s.joypad := rfl
@[simp] theorem writeBytes_memW (a : Nat) (bs : List Byte) :
    (s.writeBytes a bs).memW = s.memW.writeRun s.cfg s.inited a bs := rfl
@[simp] theorem writeBytes_memD (a : Nat) (bs : List Byte) : (s.writeBytes a bs).memD = s.memD := rfl
@[simp] theorem writeBytes_port (a : Nat) (bs : List Byte) : (s.writeBytes a bs).port = s.port := rfl
@[simp] theorem writeBytes_responses (a : Nat) (bs : List Byte) : (s.writeBytes a bs).responses = s.responses := rfl
@[simp] theorem writeBytes_sched (a : Nat) (bs : List Byte) : (s.writeBytes a bs).sched = s.sched := rfl
@[simp] theorem writeBytes_displayFair (a : Nat) (bs : List Byte) : (s.writeBytes a bs).displayFair = s.displayFair := rfl

/-! ### `memWrite` -/

@[simp] theorem memWrite_cfg (a n : Nat) (v : Word) : (s.memWrite a n v).cfg = s.cfg := rfl
@[simp] theorem memWrite_pal (a n : Nat) (v : Word) : (s.memWrite a n v).pal = s.pal := rfl
@[simp] theorem memWrite_back (a n : Nat) (v : Word) : (s.memWrite a n v).back = s.back := rfl
@[simp] theorem memWrite_scan (a n : Nat) (v : Word) : (s.memWrite a n v).scan = s.scan := rfl
@[simp] theorem memWrite_pend (a n : Nat) (v : Word) : (s.memWrite a n v).pend = s.pend := rfl
@[simp] theorem memWrite_lineNext (a n : Nat) (v : Word) : (s.memWrite a n v).lineNext = s.lineNext := rfl
@[simp] theorem memWrite_inited (a n : Nat) (v : Word) : (s.memWrite a n v).inited = s.inited := rfl
@[simp] theorem memWrite_faulted (a n : Nat) (v : Word) : (s.memWrite a n v).faulted = s.faulted := rfl
@[simp] theorem memWrite_fcause (a n : Nat) (v : Word) : (s.memWrite a n v).fcause = s.fcause := rfl
@[simp] theorem memWrite_fcmd (a n : Nat) (v : Word) : (s.memWrite a n v).fcmd = s.fcmd := rfl
@[simp] theorem memWrite_exitFlag (a n : Nat) (v : Word) : (s.memWrite a n v).exitFlag = s.exitFlag := rfl
@[simp] theorem memWrite_rawCur (a n : Nat) (v : Word) : (s.memWrite a n v).rawCur = s.rawCur := rfl
@[simp] theorem memWrite_rawPrev (a n : Nat) (v : Word) : (s.memWrite a n v).rawPrev = s.rawPrev := rfl
@[simp] theorem memWrite_joypad (a n : Nat) (v : Word) : (s.memWrite a n v).joypad = s.joypad := rfl
@[simp] theorem memWrite_memW (a n : Nat) (v : Word) :
    (s.memWrite a n v).memW = s.memW.writeRun s.cfg s.inited a (pixelBytes n v) := rfl
@[simp] theorem memWrite_memD (a n : Nat) (v : Word) : (s.memWrite a n v).memD = s.memD := rfl
@[simp] theorem memWrite_port (a n : Nat) (v : Word) : (s.memWrite a n v).port = s.port := rfl
@[simp] theorem memWrite_responses (a n : Nat) (v : Word) : (s.memWrite a n v).responses = s.responses := rfl
@[simp] theorem memWrite_sched (a n : Nat) (v : Word) : (s.memWrite a n v).sched = s.sched := rfl
@[simp] theorem memWrite_displayFair (a n : Nat) (v : Word) : (s.memWrite a n v).displayFair = s.displayFair := rfl

/-! ### `flush` -/

@[simp] theorem flush_cfg (a n : Nat) : (s.flush a n).cfg = s.cfg := rfl
@[simp] theorem flush_pal (a n : Nat) : (s.flush a n).pal = s.pal := rfl
@[simp] theorem flush_back (a n : Nat) : (s.flush a n).back = s.back := rfl
@[simp] theorem flush_scan (a n : Nat) : (s.flush a n).scan = s.scan := rfl
@[simp] theorem flush_pend (a n : Nat) : (s.flush a n).pend = s.pend := rfl
@[simp] theorem flush_lineNext (a n : Nat) : (s.flush a n).lineNext = s.lineNext := rfl
@[simp] theorem flush_inited (a n : Nat) : (s.flush a n).inited = s.inited := rfl
@[simp] theorem flush_faulted (a n : Nat) : (s.flush a n).faulted = s.faulted := rfl
@[simp] theorem flush_fcause (a n : Nat) : (s.flush a n).fcause = s.fcause := rfl
@[simp] theorem flush_fcmd (a n : Nat) : (s.flush a n).fcmd = s.fcmd := rfl
@[simp] theorem flush_exitFlag (a n : Nat) : (s.flush a n).exitFlag = s.exitFlag := rfl
@[simp] theorem flush_rawCur (a n : Nat) : (s.flush a n).rawCur = s.rawCur := rfl
@[simp] theorem flush_rawPrev (a n : Nat) : (s.flush a n).rawPrev = s.rawPrev := rfl
@[simp] theorem flush_joypad (a n : Nat) : (s.flush a n).joypad = s.joypad := rfl
@[simp] theorem flush_memW (a n : Nat) : (s.flush a n).memW = s.memW := rfl
@[simp] theorem flush_memD (a n : Nat) : (s.flush a n).memD = Memory.copyRange s.memW s.memD a n := rfl
@[simp] theorem flush_port (a n : Nat) : (s.flush a n).port = s.port := rfl
@[simp] theorem flush_responses (a n : Nat) : (s.flush a n).responses = s.responses := rfl
@[simp] theorem flush_sched (a n : Nat) : (s.flush a n).sched = s.sched := rfl
@[simp] theorem flush_displayFair (a n : Nat) : (s.flush a n).displayFair = s.displayFair := rfl

/-! ### `respond` -/

@[simp] theorem respond_cfg (err : Bool) (data : Word) : (s.respond err data).cfg = s.cfg := rfl
@[simp] theorem respond_pal (err : Bool) (data : Word) : (s.respond err data).pal = s.pal := rfl
@[simp] theorem respond_back (err : Bool) (data : Word) : (s.respond err data).back = s.back := rfl
@[simp] theorem respond_scan (err : Bool) (data : Word) : (s.respond err data).scan = s.scan := rfl
@[simp] theorem respond_pend (err : Bool) (data : Word) : (s.respond err data).pend = s.pend := rfl
@[simp] theorem respond_lineNext (err : Bool) (data : Word) : (s.respond err data).lineNext = s.lineNext := rfl
@[simp] theorem respond_inited (err : Bool) (data : Word) : (s.respond err data).inited = s.inited := rfl
@[simp] theorem respond_faulted (err : Bool) (data : Word) : (s.respond err data).faulted = s.faulted := rfl
@[simp] theorem respond_fcause (err : Bool) (data : Word) : (s.respond err data).fcause = s.fcause := rfl
@[simp] theorem respond_fcmd (err : Bool) (data : Word) : (s.respond err data).fcmd = s.fcmd := rfl
@[simp] theorem respond_exitFlag (err : Bool) (data : Word) : (s.respond err data).exitFlag = s.exitFlag := rfl
@[simp] theorem respond_rawCur (err : Bool) (data : Word) : (s.respond err data).rawCur = s.rawCur := rfl
@[simp] theorem respond_rawPrev (err : Bool) (data : Word) : (s.respond err data).rawPrev = s.rawPrev := rfl
@[simp] theorem respond_joypad (err : Bool) (data : Word) : (s.respond err data).joypad = s.joypad := rfl
@[simp] theorem respond_memW (err : Bool) (data : Word) : (s.respond err data).memW = s.memW := rfl
@[simp] theorem respond_memD (err : Bool) (data : Word) : (s.respond err data).memD = s.memD := rfl
@[simp] theorem respond_port (err : Bool) (data : Word) : (s.respond err data).port = s.port := rfl
@[simp] theorem respond_responses (err : Bool) (data : Word) :
    (s.respond err data).responses = ⟨err, data⟩ :: s.responses := rfl
@[simp] theorem respond_sched (err : Bool) (data : Word) : (s.respond err data).sched = s.sched := rfl
@[simp] theorem respond_displayFair (err : Bool) (data : Word) : (s.respond err data).displayFair = s.displayFair := rfl

/-! ### `raiseFault` -/

@[simp] theorem raiseFault_cfg (cause : Cause) (header : Word) : (s.raiseFault cause header).cfg = s.cfg := rfl
@[simp] theorem raiseFault_pal (cause : Cause) (header : Word) : (s.raiseFault cause header).pal = s.pal := rfl
@[simp] theorem raiseFault_back (cause : Cause) (header : Word) : (s.raiseFault cause header).back = s.back := rfl
@[simp] theorem raiseFault_scan (cause : Cause) (header : Word) : (s.raiseFault cause header).scan = s.scan := rfl
@[simp] theorem raiseFault_pend (cause : Cause) (header : Word) : (s.raiseFault cause header).pend = s.pend := rfl
@[simp] theorem raiseFault_lineNext (cause : Cause) (header : Word) :
    (s.raiseFault cause header).lineNext = s.lineNext := rfl
@[simp] theorem raiseFault_inited (cause : Cause) (header : Word) : (s.raiseFault cause header).inited = s.inited := rfl
@[simp] theorem raiseFault_faulted (cause : Cause) (header : Word) : (s.raiseFault cause header).faulted = true := rfl
@[simp] theorem raiseFault_fcause (cause : Cause) (header : Word) : (s.raiseFault cause header).fcause = cause.code := rfl
@[simp] theorem raiseFault_fcmd (cause : Cause) (header : Word) : (s.raiseFault cause header).fcmd = header := rfl
@[simp] theorem raiseFault_exitFlag (cause : Cause) (header : Word) :
    (s.raiseFault cause header).exitFlag = s.exitFlag := rfl
@[simp] theorem raiseFault_rawCur (cause : Cause) (header : Word) : (s.raiseFault cause header).rawCur = s.rawCur := rfl
@[simp] theorem raiseFault_rawPrev (cause : Cause) (header : Word) : (s.raiseFault cause header).rawPrev = s.rawPrev := rfl
@[simp] theorem raiseFault_joypad (cause : Cause) (header : Word) : (s.raiseFault cause header).joypad = s.joypad := rfl
@[simp] theorem raiseFault_memW (cause : Cause) (header : Word) : (s.raiseFault cause header).memW = s.memW := rfl
@[simp] theorem raiseFault_memD (cause : Cause) (header : Word) : (s.raiseFault cause header).memD = s.memD := rfl
@[simp] theorem raiseFault_port (cause : Cause) (header : Word) : (s.raiseFault cause header).port = s.port := rfl
@[simp] theorem raiseFault_responses (cause : Cause) (header : Word) :
    (s.raiseFault cause header).responses = ⟨true, cause.code.setWidth 32⟩ :: s.responses := rfl
@[simp] theorem raiseFault_sched (cause : Cause) (header : Word) : (s.raiseFault cause header).sched = s.sched := rfl
@[simp] theorem raiseFault_displayFair (cause : Cause) (header : Word) :
    (s.raiseFault cause header).displayFair = s.displayFair := rfl

/-! ### `refuseFaulted` -/

@[simp] theorem refuseFaulted_cfg : s.refuseFaulted.cfg = s.cfg := rfl
@[simp] theorem refuseFaulted_pal : s.refuseFaulted.pal = s.pal := rfl
@[simp] theorem refuseFaulted_back : s.refuseFaulted.back = s.back := rfl
@[simp] theorem refuseFaulted_scan : s.refuseFaulted.scan = s.scan := rfl
@[simp] theorem refuseFaulted_pend : s.refuseFaulted.pend = s.pend := rfl
@[simp] theorem refuseFaulted_lineNext : s.refuseFaulted.lineNext = s.lineNext := rfl
@[simp] theorem refuseFaulted_inited : s.refuseFaulted.inited = s.inited := rfl
@[simp] theorem refuseFaulted_faulted : s.refuseFaulted.faulted = s.faulted := rfl
@[simp] theorem refuseFaulted_fcause : s.refuseFaulted.fcause = s.fcause := rfl
@[simp] theorem refuseFaulted_fcmd : s.refuseFaulted.fcmd = s.fcmd := rfl
@[simp] theorem refuseFaulted_exitFlag : s.refuseFaulted.exitFlag = s.exitFlag := rfl
@[simp] theorem refuseFaulted_rawCur : s.refuseFaulted.rawCur = s.rawCur := rfl
@[simp] theorem refuseFaulted_rawPrev : s.refuseFaulted.rawPrev = s.rawPrev := rfl
@[simp] theorem refuseFaulted_joypad : s.refuseFaulted.joypad = s.joypad := rfl
@[simp] theorem refuseFaulted_memW : s.refuseFaulted.memW = s.memW := rfl
@[simp] theorem refuseFaulted_memD : s.refuseFaulted.memD = s.memD := rfl
@[simp] theorem refuseFaulted_port : s.refuseFaulted.port = s.port := rfl
@[simp] theorem refuseFaulted_responses : s.refuseFaulted.responses = ⟨true, s.fcause.setWidth 32⟩ :: s.responses := rfl
@[simp] theorem refuseFaulted_sched : s.refuseFaulted.sched = s.sched := rfl
@[simp] theorem refuseFaulted_displayFair : s.refuseFaulted.displayFair = s.displayFair := rfl

/-! ### `submit` -/

@[simp] theorem submit_cfg : s.submit.cfg = s.cfg := rfl
@[simp] theorem submit_pal : s.submit.pal = s.pal := rfl
@[simp] theorem submit_back : s.submit.back = s.back := rfl
@[simp] theorem submit_scan : s.submit.scan = s.scan := rfl
@[simp] theorem submit_pend : s.submit.pend = true := rfl
@[simp] theorem submit_lineNext : s.submit.lineNext = s.lineNext := rfl
@[simp] theorem submit_inited : s.submit.inited = s.inited := rfl
@[simp] theorem submit_faulted : s.submit.faulted = s.faulted := rfl
@[simp] theorem submit_fcause : s.submit.fcause = s.fcause := rfl
@[simp] theorem submit_fcmd : s.submit.fcmd = s.fcmd := rfl
@[simp] theorem submit_exitFlag : s.submit.exitFlag = s.exitFlag := rfl
@[simp] theorem submit_rawCur : s.submit.rawCur = s.rawCur := rfl
@[simp] theorem submit_rawPrev : s.submit.rawPrev = s.rawPrev := rfl
@[simp] theorem submit_joypad : s.submit.joypad = s.joypad := rfl
@[simp] theorem submit_memW : s.submit.memW = s.memW := rfl
@[simp] theorem submit_memD : s.submit.memD = s.memD := rfl
@[simp] theorem submit_port : s.submit.port = s.port := rfl
@[simp] theorem submit_responses : s.submit.responses = s.responses := rfl
@[simp] theorem submit_sched : s.submit.sched = s.sched := rfl
@[simp] theorem submit_displayFair : s.submit.displayFair = s.displayFair := rfl

/-! ### `complete` -/

@[simp] theorem complete_cfg : s.complete.cfg = s.cfg := rfl
@[simp] theorem complete_pal : s.complete.pal = s.pal := rfl
@[simp] theorem complete_back : s.complete.back = s.back.other := rfl
@[simp] theorem complete_scan : s.complete.scan = s.scan := rfl
@[simp] theorem complete_pend : s.complete.pend = false := rfl
@[simp] theorem complete_lineNext : s.complete.lineNext = 0 := rfl
@[simp] theorem complete_inited : s.complete.inited = s.inited := rfl
@[simp] theorem complete_faulted : s.complete.faulted = s.faulted := rfl
@[simp] theorem complete_fcause : s.complete.fcause = s.fcause := rfl
@[simp] theorem complete_fcmd : s.complete.fcmd = s.fcmd := rfl
@[simp] theorem complete_exitFlag : s.complete.exitFlag = s.exitFlag := rfl
@[simp] theorem complete_rawCur : s.complete.rawCur = s.rawCur := rfl
@[simp] theorem complete_rawPrev : s.complete.rawPrev = s.rawPrev := rfl
@[simp] theorem complete_joypad : s.complete.joypad = s.joypad := rfl
@[simp] theorem complete_memW : s.complete.memW = s.memW := rfl
@[simp] theorem complete_memD : s.complete.memD = s.memD := rfl
@[simp] theorem complete_port : s.complete.port = s.port := rfl
@[simp] theorem complete_responses : s.complete.responses = ⟨false, 0⟩ :: s.responses := rfl
@[simp] theorem complete_sched : s.complete.sched = s.sched := rfl
@[simp] theorem complete_displayFair : s.complete.displayFair = s.displayFair := rfl

/-! ### `withPort` -/

@[simp] theorem withPort_cfg (ws : List Word) : (s.withPort ws).cfg = s.cfg := rfl
@[simp] theorem withPort_pal (ws : List Word) : (s.withPort ws).pal = s.pal := rfl
@[simp] theorem withPort_back (ws : List Word) : (s.withPort ws).back = s.back := rfl
@[simp] theorem withPort_scan (ws : List Word) : (s.withPort ws).scan = s.scan := rfl
@[simp] theorem withPort_pend (ws : List Word) : (s.withPort ws).pend = s.pend := rfl
@[simp] theorem withPort_lineNext (ws : List Word) : (s.withPort ws).lineNext = s.lineNext := rfl
@[simp] theorem withPort_inited (ws : List Word) : (s.withPort ws).inited = s.inited := rfl
@[simp] theorem withPort_faulted (ws : List Word) : (s.withPort ws).faulted = s.faulted := rfl
@[simp] theorem withPort_fcause (ws : List Word) : (s.withPort ws).fcause = s.fcause := rfl
@[simp] theorem withPort_fcmd (ws : List Word) : (s.withPort ws).fcmd = s.fcmd := rfl
@[simp] theorem withPort_exitFlag (ws : List Word) : (s.withPort ws).exitFlag = s.exitFlag := rfl
@[simp] theorem withPort_rawCur (ws : List Word) : (s.withPort ws).rawCur = s.rawCur := rfl
@[simp] theorem withPort_rawPrev (ws : List Word) : (s.withPort ws).rawPrev = s.rawPrev := rfl
@[simp] theorem withPort_joypad (ws : List Word) : (s.withPort ws).joypad = s.joypad := rfl
@[simp] theorem withPort_memW (ws : List Word) : (s.withPort ws).memW = s.memW := rfl
@[simp] theorem withPort_memD (ws : List Word) : (s.withPort ws).memD = s.memD := rfl
@[simp] theorem withPort_port (ws : List Word) : (s.withPort ws).port = ws := rfl
@[simp] theorem withPort_responses (ws : List Word) : (s.withPort ws).responses = s.responses := rfl
@[simp] theorem withPort_sched (ws : List Word) : (s.withPort ws).sched = s.sched := rfl
@[simp] theorem withPort_displayFair (ws : List Word) : (s.withPort ws).displayFair = s.displayFair := rfl

/-! ### `dropTurn` -/

@[simp] theorem dropTurn_cfg : s.dropTurn.cfg = s.cfg := rfl
@[simp] theorem dropTurn_pal : s.dropTurn.pal = s.pal := rfl
@[simp] theorem dropTurn_back : s.dropTurn.back = s.back := rfl
@[simp] theorem dropTurn_scan : s.dropTurn.scan = s.scan := rfl
@[simp] theorem dropTurn_pend : s.dropTurn.pend = s.pend := rfl
@[simp] theorem dropTurn_lineNext : s.dropTurn.lineNext = s.lineNext := rfl
@[simp] theorem dropTurn_inited : s.dropTurn.inited = s.inited := rfl
@[simp] theorem dropTurn_faulted : s.dropTurn.faulted = s.faulted := rfl
@[simp] theorem dropTurn_fcause : s.dropTurn.fcause = s.fcause := rfl
@[simp] theorem dropTurn_fcmd : s.dropTurn.fcmd = s.fcmd := rfl
@[simp] theorem dropTurn_exitFlag : s.dropTurn.exitFlag = s.exitFlag := rfl
@[simp] theorem dropTurn_rawCur : s.dropTurn.rawCur = s.rawCur := rfl
@[simp] theorem dropTurn_rawPrev : s.dropTurn.rawPrev = s.rawPrev := rfl
@[simp] theorem dropTurn_joypad : s.dropTurn.joypad = s.joypad := rfl
@[simp] theorem dropTurn_memW : s.dropTurn.memW = s.memW := rfl
@[simp] theorem dropTurn_memD : s.dropTurn.memD = s.memD := rfl
@[simp] theorem dropTurn_port : s.dropTurn.port = s.port := rfl
@[simp] theorem dropTurn_responses : s.dropTurn.responses = s.responses := rfl
@[simp] theorem dropTurn_sched : s.dropTurn.sched = s.sched.tail := rfl
@[simp] theorem dropTurn_displayFair : s.dropTurn.displayFair = s.displayFair := rfl

/-! ### `initialise` -/

@[simp] theorem initialise_cfg : s.initialise.cfg = s.cfg := rfl
@[simp] theorem initialise_pal : s.initialise.pal = s.pal := rfl
@[simp] theorem initialise_back : s.initialise.back = .A := rfl
@[simp] theorem initialise_scan : s.initialise.scan = .B := rfl
@[simp] theorem initialise_pend : s.initialise.pend = false := rfl
@[simp] theorem initialise_lineNext : s.initialise.lineNext = 0 := rfl
@[simp] theorem initialise_inited : s.initialise.inited = true := rfl
@[simp] theorem initialise_faulted : s.initialise.faulted = s.faulted := rfl
@[simp] theorem initialise_fcause : s.initialise.fcause = s.fcause := rfl
@[simp] theorem initialise_fcmd : s.initialise.fcmd = s.fcmd := rfl
@[simp] theorem initialise_exitFlag : s.initialise.exitFlag = s.exitFlag := rfl
@[simp] theorem initialise_rawCur : s.initialise.rawCur = s.rawCur := rfl
@[simp] theorem initialise_rawPrev : s.initialise.rawPrev = s.rawPrev := rfl
@[simp] theorem initialise_joypad : s.initialise.joypad = s.joypad := rfl
@[simp] theorem initialise_memW : s.initialise.memW = s.memW.outsideSlots s.cfg := rfl
@[simp] theorem initialise_port : s.initialise.port = s.port := rfl
@[simp] theorem initialise_responses : s.initialise.responses = s.responses := rfl
@[simp] theorem initialise_sched : s.initialise.sched = s.sched := rfl
@[simp] theorem initialise_displayFair : s.initialise.displayFair = s.displayFair := rfl

/-! ### `putScanline` -/

@[simp] theorem putScanline_cfg (line : Byte) (payload : List Word) : (s.putScanline line payload).cfg = s.cfg := rfl
@[simp] theorem putScanline_pal (line : Byte) (payload : List Word) : (s.putScanline line payload).pal = s.pal := rfl
@[simp] theorem putScanline_back (line : Byte) (payload : List Word) : (s.putScanline line payload).back = s.back := rfl
@[simp] theorem putScanline_scan (line : Byte) (payload : List Word) : (s.putScanline line payload).scan = s.scan := rfl
@[simp] theorem putScanline_pend (line : Byte) (payload : List Word) : (s.putScanline line payload).pend = s.pend := rfl
@[simp] theorem putScanline_lineNext (line : Byte) (payload : List Word) :
    (s.putScanline line payload).lineNext = line + 1 := rfl
@[simp] theorem putScanline_inited (line : Byte) (payload : List Word) :
    (s.putScanline line payload).inited = s.inited := rfl
@[simp] theorem putScanline_faulted (line : Byte) (payload : List Word) :
    (s.putScanline line payload).faulted = s.faulted := rfl
@[simp] theorem putScanline_fcause (line : Byte) (payload : List Word) :
    (s.putScanline line payload).fcause = s.fcause := rfl
@[simp] theorem putScanline_fcmd (line : Byte) (payload : List Word) : (s.putScanline line payload).fcmd = s.fcmd := rfl
@[simp] theorem putScanline_exitFlag (line : Byte) (payload : List Word) :
    (s.putScanline line payload).exitFlag = s.exitFlag := rfl
@[simp] theorem putScanline_rawCur (line : Byte) (payload : List Word) :
    (s.putScanline line payload).rawCur = s.rawCur := rfl
@[simp] theorem putScanline_rawPrev (line : Byte) (payload : List Word) :
    (s.putScanline line payload).rawPrev = s.rawPrev := rfl
@[simp] theorem putScanline_joypad (line : Byte) (payload : List Word) :
    (s.putScanline line payload).joypad = s.joypad := rfl
@[simp] theorem putScanline_memW (line : Byte) (payload : List Word) :
    (s.putScanline line payload).memW = s.memW.writeRun s.cfg s.inited (s.cfg.rowAddr s.back line.toNat) (s.scanlineBytes payload) := rfl
@[simp] theorem putScanline_memD (line : Byte) (payload : List Word) :
    (s.putScanline line payload).memD = Memory.copyRange
      (s.memW.writeRun s.cfg s.inited (s.cfg.rowAddr s.back line.toNat) (s.scanlineBytes payload)) s.memD
      (s.cfg.rowAddr s.back line.toNat) s.cfg.rowBytes := rfl
@[simp] theorem putScanline_port (line : Byte) (payload : List Word) : (s.putScanline line payload).port = s.port := rfl
@[simp] theorem putScanline_responses (line : Byte) (payload : List Word) :
    (s.putScanline line payload).responses = ⟨false, 0⟩ :: s.responses := rfl
@[simp] theorem putScanline_sched (line : Byte) (payload : List Word) : (s.putScanline line payload).sched = s.sched := rfl
@[simp] theorem putScanline_displayFair (line : Byte) (payload : List Word) :
    (s.putScanline line payload).displayFair = s.displayFair := rfl

/-! ### `latch` -/

@[simp] theorem latch_cfg (raw : BitVec 16) : (s.latch raw).cfg = s.cfg := rfl
@[simp] theorem latch_pal (raw : BitVec 16) : (s.latch raw).pal = s.pal := rfl
@[simp] theorem latch_back (raw : BitVec 16) : (s.latch raw).back = s.back := rfl
@[simp] theorem latch_scan (raw : BitVec 16) : (s.latch raw).scan = s.scan := rfl
@[simp] theorem latch_pend (raw : BitVec 16) : (s.latch raw).pend = s.pend := rfl
@[simp] theorem latch_lineNext (raw : BitVec 16) : (s.latch raw).lineNext = s.lineNext := rfl
@[simp] theorem latch_inited (raw : BitVec 16) : (s.latch raw).inited = s.inited := rfl
@[simp] theorem latch_faulted (raw : BitVec 16) : (s.latch raw).faulted = s.faulted := rfl
@[simp] theorem latch_fcause (raw : BitVec 16) : (s.latch raw).fcause = s.fcause := rfl
@[simp] theorem latch_fcmd (raw : BitVec 16) : (s.latch raw).fcmd = s.fcmd := rfl
@[simp] theorem latch_exitFlag (raw : BitVec 16) : (s.latch raw).exitFlag = exitAfter s.cfg s.rawCur raw s.exitFlag := rfl
@[simp] theorem latch_rawCur (raw : BitVec 16) : (s.latch raw).rawCur = raw := rfl
@[simp] theorem latch_rawPrev (raw : BitVec 16) : (s.latch raw).rawPrev = s.rawCur := rfl
@[simp] theorem latch_joypad (raw : BitVec 16) : (s.latch raw).joypad = joypadAfter s.cfg s.rawCur raw s.joypad := rfl
@[simp] theorem latch_memW (raw : BitVec 16) : (s.latch raw).memW = s.memW := rfl
@[simp] theorem latch_memD (raw : BitVec 16) : (s.latch raw).memD = s.memD := rfl
@[simp] theorem latch_port (raw : BitVec 16) : (s.latch raw).port = s.port := rfl
@[simp] theorem latch_responses (raw : BitVec 16) :
    (s.latch raw).responses = ⟨false, edgeWord (releaseEdges s.rawCur raw) (pressEdges s.rawCur raw)⟩ :: s.responses := rfl
@[simp] theorem latch_sched (raw : BitVec 16) : (s.latch raw).sched = s.sched := rfl
@[simp] theorem latch_displayFair (raw : BitVec 16) : (s.latch raw).displayFair = s.displayFair := rfl

/-! ### `resetInput` -/

@[simp] theorem resetInput_cfg : s.resetInput.cfg = s.cfg := rfl
@[simp] theorem resetInput_pal : s.resetInput.pal = s.cfg.palette := rfl
@[simp] theorem resetInput_back : s.resetInput.back = .A := rfl
@[simp] theorem resetInput_scan : s.resetInput.scan = .B := rfl
@[simp] theorem resetInput_pend : s.resetInput.pend = false := rfl
@[simp] theorem resetInput_lineNext : s.resetInput.lineNext = 0 := rfl
@[simp] theorem resetInput_inited : s.resetInput.inited = false := rfl
@[simp] theorem resetInput_faulted : s.resetInput.faulted = false := rfl
@[simp] theorem resetInput_fcause : s.resetInput.fcause = 0 := rfl
@[simp] theorem resetInput_fcmd : s.resetInput.fcmd = 0 := rfl
@[simp] theorem resetInput_exitFlag : s.resetInput.exitFlag = false := rfl
@[simp] theorem resetInput_rawCur : s.resetInput.rawCur = 0 := rfl
@[simp] theorem resetInput_rawPrev : s.resetInput.rawPrev = 0 := rfl
@[simp] theorem resetInput_joypad : s.resetInput.joypad = 0xFF := rfl
@[simp] theorem resetInput_memW : s.resetInput.memW = [] := rfl
@[simp] theorem resetInput_memD : s.resetInput.memD = [] := rfl
@[simp] theorem resetInput_port : s.resetInput.port = portAfterReset s.cfg s.port := rfl
@[simp] theorem resetInput_responses : s.resetInput.responses = s.responses := rfl
@[simp] theorem resetInput_sched : s.resetInput.sched = s.sched := rfl
@[simp] theorem resetInput_displayFair : s.resetInput.displayFair = s.displayFair := rfl

/-! ### `displayAccept` -/

@[simp] theorem displayAccept_cfg : s.displayAccept.cfg = s.cfg := by unfold State.displayAccept; split <;> rfl
@[simp] theorem displayAccept_pal : s.displayAccept.pal = s.pal := by unfold State.displayAccept; split <;> rfl
@[simp] theorem displayAccept_back : s.displayAccept.back = s.back := by unfold State.displayAccept; split <;> rfl
@[simp] theorem displayAccept_pend : s.displayAccept.pend = s.pend := by unfold State.displayAccept; split <;> rfl
@[simp] theorem displayAccept_lineNext : s.displayAccept.lineNext = s.lineNext := by unfold State.displayAccept; split <;> rfl
@[simp] theorem displayAccept_inited : s.displayAccept.inited = s.inited := by unfold State.displayAccept; split <;> rfl
@[simp] theorem displayAccept_faulted : s.displayAccept.faulted = s.faulted := by unfold State.displayAccept; split <;> rfl
@[simp] theorem displayAccept_fcause : s.displayAccept.fcause = s.fcause := by unfold State.displayAccept; split <;> rfl
@[simp] theorem displayAccept_fcmd : s.displayAccept.fcmd = s.fcmd := by unfold State.displayAccept; split <;> rfl
@[simp] theorem displayAccept_exitFlag : s.displayAccept.exitFlag = s.exitFlag := by unfold State.displayAccept; split <;> rfl
@[simp] theorem displayAccept_rawCur : s.displayAccept.rawCur = s.rawCur := by unfold State.displayAccept; split <;> rfl
@[simp] theorem displayAccept_rawPrev : s.displayAccept.rawPrev = s.rawPrev := by unfold State.displayAccept; split <;> rfl
@[simp] theorem displayAccept_joypad : s.displayAccept.joypad = s.joypad := by unfold State.displayAccept; split <;> rfl
@[simp] theorem displayAccept_memW : s.displayAccept.memW = s.memW := by unfold State.displayAccept; split <;> rfl
@[simp] theorem displayAccept_memD : s.displayAccept.memD = s.memD := by unfold State.displayAccept; split <;> rfl
@[simp] theorem displayAccept_port : s.displayAccept.port = s.port := by unfold State.displayAccept; split <;> rfl
@[simp] theorem displayAccept_responses : s.displayAccept.responses = s.responses := by unfold State.displayAccept; split <;> rfl
@[simp] theorem displayAccept_sched : s.displayAccept.sched = s.sched := by unfold State.displayAccept; split <;> rfl
@[simp] theorem displayAccept_displayFair : s.displayAccept.displayFair = s.displayFair := by unfold State.displayAccept; split <;> rfl

/-- The display's accept step writes `SCAN` when PRESENT waits for it, and nothing otherwise (42_framesync.md R101). -/
theorem displayAccept_scan : s.displayAccept.scan = if s.waiting then s.back else s.scan := by
  unfold State.displayAccept; split <;> rfl

end Sys2Proof.Machine
end

