-- ==== Sys2Proof/Laws/Memory.lean ====
section
/-! SUPPORT. The laws of the frame store: what a byte reads as after each memory operation, and that every memory
operation keeps the canonical form. -/

namespace Sys2Proof.Machine

/-! ### Looking up -/

@[simp] theorem lookup_nil (x : Nat) : Memory.lookup [] x = none := rfl

theorem lookup_cons (e : Host.Cell) (m : Memory) (x : Nat) :
    Memory.lookup (e :: m) x = if e.1 = x then some e.2 else Memory.lookup m x := by
  by_cases h : e.1 = x <;> simp [Memory.lookup, h]

theorem lookup_append (m k : Memory) (x : Nat) :
    Memory.lookup (m ++ k) x = (Memory.lookup m x).or (Memory.lookup k x) := by
  induction m with
  | nil => simp
  | cons e m ih =>
    rw [List.cons_append, lookup_cons, lookup_cons, ih]
    split <;> simp

/-- Keeping the entries whose address satisfies `p` keeps what such an address reads, and nothing else. -/
theorem lookup_filter_addr (p : Nat → Bool) (m : Memory) (x : Nat) :
    Memory.lookup (m.filter (fun e => p e.1)) x = if p x then Memory.lookup m x else none := by
  induction m with
  | nil => simp
  | cons e m ih =>
    rw [List.filter_cons, lookup_cons]
    by_cases hx : e.1 = x
    · subst hx
      cases hp : p e.1 <;> simp [lookup_cons, ih, hp]
    · cases hp : p e.1 <;> simp [lookup_cons, ih, hx]

/-- A looked-up byte is a listed one. -/
theorem mem_of_lookup {m : Memory} {x : Nat} {b : Byte} (h : m.lookup x = some b) : (x, b) ∈ m := by
  induction m with
  | nil => simp at h
  | cons e m ih =>
    rw [lookup_cons] at h
    split at h
    · obtain rfl := Option.some.inj h
      rename_i hx
      simp [← hx]
    · exact List.mem_cons_of_mem _ (ih h)

/-! ### Runs of bytes -/

@[simp] theorem cellsFrom_nil (a : Nat) : cellsFrom a [] = [] := rfl

@[simp] theorem cellsFrom_cons (a : Nat) (b : Byte) (bs : List Byte) :
    cellsFrom a (b :: bs) = (a, b) :: cellsFrom (a + 1) bs := rfl

/-- An entry of a run: its address is in the run and its byte is the run's byte there. -/
theorem mem_cellsFrom {e : Host.Cell} {a : Nat} {bs : List Byte} (h : e ∈ cellsFrom a bs) :
    a ≤ e.1 ∧ e.1 < a + bs.length ∧ bs[e.1 - a]? = some e.2 := by
  induction bs generalizing a with
  | nil => simp at h
  | cons b bs ih =>
    rcases List.mem_cons.1 h with rfl | h
    · simp
    · obtain ⟨h1, h2, h3⟩ := ih h
      refine ⟨by omega, by simp only [List.length_cons]; omega, ?_⟩
      rw [show e.1 - a = (e.1 - (a + 1)) + 1 by omega]
      simpa using h3

theorem cellsFrom_pairwise (a : Nat) (bs : List Byte) : (cellsFrom a bs).Pairwise (fun x y => x.1 < y.1) := by
  induction bs generalizing a with
  | nil => exact List.Pairwise.nil
  | cons b bs ih =>
    refine List.Pairwise.cons (fun e he => ?_) (ih _)
    have := (mem_cellsFrom he).1
    omega

/-- Looking up in a run from which entries were left out where they read the same unlisted. -/
theorem lookup_cellsFrom_filter (d : Nat → Option Byte) (a : Nat) (bs : List Byte) (x : Nat) :
    Memory.lookup ((cellsFrom a bs).filter (fun e => d e.1 != some e.2)) x =
      if a ≤ x ∧ x < a + bs.length then (if d x = bs[x - a]? then none else bs[x - a]?) else none := by
  induction bs generalizing a with
  | nil => simp
  | cons b bs ih =>
    have tail : a ≠ x → (if a + 1 ≤ x ∧ x < a + 1 + bs.length
          then (if d x = bs[x - (a + 1)]? then none else bs[x - (a + 1)]?) else none) =
        (if a ≤ x ∧ x < a + (b :: bs).length
          then (if d x = (b :: bs)[x - a]? then none else (b :: bs)[x - a]?) else none) := by
      intro hx
      by_cases hr : a + 1 ≤ x ∧ x < a + 1 + bs.length
      · have h2 : a ≤ x ∧ x < a + (b :: bs).length := by simp only [List.length_cons]; omega
        have h3 : x - a = (x - (a + 1)) + 1 := by omega
        rw [if_pos hr, if_pos h2, h3, List.getElem?_cons_succ]
      · have h2 : ¬ (a ≤ x ∧ x < a + (b :: bs).length) := by simp only [List.length_cons]; omega
        rw [if_neg hr, if_neg h2]
    rw [cellsFrom_cons, List.filter_cons]
    by_cases hx : a = x
    · subst hx
      by_cases hd : d a = some b
      · simp [hd, ih]
      · simp [hd, lookup_cons]
    · split
      · rw [lookup_cons, if_neg hx, ih, tail hx]
      · rw [ih, tail hx]

/-! ### Reading after each operation -/

/-- The byte at an address: the listed one, else what the address reads as unlisted. -/
theorem byteAt_eq (c : Config) (i : Bool) (m : Memory) (x : Nat) :
    m.byteAt c i x = (m.lookup x).or (unlistedByte c i x) := by
  unfold Memory.byteAt
  cases m.lookup x <;> rfl

@[simp] theorem byteAt_nil (c : Config) (i : Bool) (x : Nat) : Memory.byteAt c i [] x = unlistedByte c i x := rfl

/-- Reading after a run of bytes was written: the run's byte inside it, the old byte outside (20_memory.md R45). -/
theorem byteAt_writeRun (c : Config) (i : Bool) (m : Memory) (a : Nat) (bs : List Byte) (x : Nat) :
    Memory.byteAt c i (m.writeRun c i a bs) x =
      if a ≤ x ∧ x < a + bs.length then bs[x - a]? else m.byteAt c i x := by
  have below := lookup_filter_addr (fun k => decide (k < a)) m x
  have above := lookup_filter_addr (fun k => decide (a + bs.length ≤ k)) m x
  rw [byteAt_eq, byteAt_eq]
  unfold Memory.writeRun
  rw [lookup_append, lookup_append, lookup_cellsFrom_filter (unlistedByte c i), below, above]
  by_cases h : a ≤ x ∧ x < a + bs.length
  · have h1 : ¬ x < a := by omega
    have h2 : ¬ a + bs.length ≤ x := by omega
    have h3 : x - a < bs.length := by omega
    simp only [h, h1, h2, List.getElem?_eq_getElem h3, decide_false, Bool.false_eq_true, if_false, and_self, if_true,
      Option.none_or, Option.or_none]
    split <;> simp_all
  · rw [if_neg h, if_neg h]
    by_cases h1 : x < a
    · have h2 : ¬ a + bs.length ≤ x := by omega
      simp [h1, h2]
    · have h2 : a + bs.length ≤ x := by omega
      simp [h1, h2]

/-- Looking up after a range was copied. -/
theorem lookup_copyRange (src dst : Memory) (a n x : Nat) :
    Memory.lookup (Memory.copyRange src dst a n) x =
      if a ≤ x ∧ x < a + n then Memory.lookup src x else Memory.lookup dst x := by
  have below := lookup_filter_addr (fun k => decide (k < a)) dst x
  have inside := lookup_filter_addr (fun k => decide (a ≤ k) && decide (k < a + n)) src x
  have above := lookup_filter_addr (fun k => decide (a + n ≤ k)) dst x
  unfold Memory.copyRange
  rw [lookup_append, lookup_append, below, inside, above]
  by_cases h : a ≤ x ∧ x < a + n
  · have h1 : ¬ x < a := by omega
    have h2 : ¬ a + n ≤ x := by omega
    simp [h, h1, h2]
  · rw [if_neg h]
    by_cases h1 : x < a
    · have h2 : ¬ a + n ≤ x := by omega
      have h3 : ¬ a ≤ x := by omega
      simp [h1, h2, h3]
    · have h2 : a + n ≤ x := by omega
      have h3 : ¬ x < a + n := by omega
      simp [h1, h2, h3]

/-- Reading after a range was copied: the source's byte inside it, the old byte outside (R46). -/
theorem byteAt_copyRange (c : Config) (i : Bool) (src dst : Memory) (a n x : Nat) :
    Memory.byteAt c i (Memory.copyRange src dst a n) x =
      if a ≤ x ∧ x < a + n then src.byteAt c i x else dst.byteAt c i x := by
  simp only [byteAt_eq, lookup_copyRange]
  split <;> rfl

theorem lookup_outsideSlots (c : Config) (m : Memory) (x : Nat) :
    Memory.lookup (m.outsideSlots c) x = if c.inSlots x then none else m.lookup x := by
  unfold Memory.outsideSlots
  rw [lookup_filter_addr (fun k => !c.inSlots k)]
  cases c.inSlots x <;> simp

/-- Reading with nothing listed inside the slots: unlisted inside, the old byte outside. -/
theorem byteAt_outsideSlots (c : Config) (i : Bool) (m : Memory) (x : Nat) :
    Memory.byteAt c i (m.outsideSlots c) x = if c.inSlots x then unlistedByte c i x else m.byteAt c i x := by
  simp only [byteAt_eq, lookup_outsideSlots]
  split <;> simp

/-- An address outside the slots is unlisted without a value. -/
theorem unlistedByte_outside {c : Config} {i : Bool} {x : Nat} (h : c.inSlots x = false) : unlistedByte c i x = none := by
  unfold Config.inSlots at h
  rw [Bool.or_eq_false_iff] at h
  unfold unlistedByte backgroundByte
  simp [h.1, h.2]

/-! ### The two views of a state -/

theorem writerByte_writeBytes (s : State) (a : Nat) (bs : List Byte) (x : Nat) :
    (s.writeBytes a bs).writerByte x = if a ≤ x ∧ x < a + bs.length then bs[x - a]? else s.writerByte x :=
  byteAt_writeRun ..

@[simp] theorem displayByte_writeBytes (s : State) (a : Nat) (bs : List Byte) (x : Nat) :
    (s.writeBytes a bs).displayByte x = s.displayByte x := rfl

theorem writerByte_memWrite (s : State) (a n : Nat) (v : Word) (x : Nat) :
    (s.memWrite a n v).writerByte x = if a ≤ x ∧ x < a + n then some (byteOf v (x - a)) else s.writerByte x := by
  unfold State.memWrite
  rw [writerByte_writeBytes]
  simp only [pixelBytes, List.length_map, List.length_range]
  split
  · have : x - a < n := by omega
    simp [this]
  · rfl

@[simp] theorem displayByte_memWrite (s : State) (a n : Nat) (v : Word) (x : Nat) :
    (s.memWrite a n v).displayByte x = s.displayByte x := rfl

@[simp] theorem writerByte_flush (s : State) (a n x : Nat) : (s.flush a n).writerByte x = s.writerByte x := rfl

/-- `Flush(addr, n)` makes exactly the n bytes visible to the display (R46). -/
theorem displayByte_flush (s : State) (a n x : Nat) :
    (s.flush a n).displayByte x = if a ≤ x ∧ x < a + n then s.writerByte x else s.displayByte x :=
  byteAt_copyRange ..

@[simp] theorem writerByte_respond (s : State) (e : Bool) (d : Word) (x : Nat) :
    (s.respond e d).writerByte x = s.writerByte x := rfl

@[simp] theorem displayByte_respond (s : State) (e : Bool) (d : Word) (x : Nat) :
    (s.respond e d).displayByte x = s.displayByte x := rfl

/-! ### The canonical form -/

theorem wf_iff (c : Config) (i : Bool) (m : Memory) :
    m.wf c i = true ↔
      m.Pairwise (fun x y => x.1 < y.1) ∧ ∀ e ∈ m, c.inSlots e.1 = true ∧ unlistedByte c i e.1 ≠ some e.2 := by
  simp [Memory.wf]

@[simp] theorem wf_nil (c : Config) (i : Bool) : Memory.wf c i [] = true := by simp [Memory.wf]

/-- Writing a run of bytes inside the slots keeps the canonical form. -/
theorem wf_writeRun {c : Config} {i : Bool} {m : Memory} {a : Nat} {bs : List Byte} (h : m.wf c i = true)
    (hin : ∀ x, a ≤ x → x < a + bs.length → c.inSlots x = true) : (m.writeRun c i a bs).wf c i = true := by
  rw [wf_iff] at h ⊢
  obtain ⟨hp, hm⟩ := h
  unfold Memory.writeRun
  constructor
  · refine List.pairwise_append.2 ⟨List.pairwise_append.2 ⟨hp.filter _, (cellsFrom_pairwise a bs).filter _, ?_⟩, hp.filter _, ?_⟩
    · intro x hx y hy
      have hx := (List.mem_filter.1 hx).2
      have hy := mem_cellsFrom (List.mem_filter.1 hy).1
      simp only [decide_eq_true_eq] at hx
      omega
    · intro x hx y hy
      have hy := (List.mem_filter.1 hy).2
      simp only [decide_eq_true_eq] at hy
      rcases List.mem_append.1 hx with hx | hx
      · have hx := (List.mem_filter.1 hx).2
        simp only [decide_eq_true_eq] at hx
        omega
      · have hx := mem_cellsFrom (List.mem_filter.1 hx).1
        omega
  · intro e he
    rcases List.mem_append.1 he with he | he
    · rcases List.mem_append.1 he with he | he
      · exact hm e (List.mem_filter.1 he).1
      · obtain ⟨hmem, hne⟩ := List.mem_filter.1 he
        have hr := mem_cellsFrom hmem
        exact ⟨hin e.1 hr.1 hr.2.1, by simpa using hne⟩
    · exact hm e (List.mem_filter.1 he).1

/-- Copying a range between two canonical views keeps the canonical form. -/
theorem wf_copyRange {c : Config} {i : Bool} {src dst : Memory} (a n : Nat) (hs : src.wf c i = true)
    (hd : dst.wf c i = true) : (Memory.copyRange src dst a n).wf c i = true := by
  rw [wf_iff] at hs hd ⊢
  unfold Memory.copyRange
  constructor
  · refine List.pairwise_append.2
      ⟨List.pairwise_append.2 ⟨hd.1.filter _, hs.1.filter _, ?_⟩, hd.1.filter _, ?_⟩
    · intro x hx y hy
      have hx := (List.mem_filter.1 hx).2
      have hy := (List.mem_filter.1 hy).2
      simp only [decide_eq_true_eq, Bool.and_eq_true] at hx hy
      omega
    · intro x hx y hy
      have hy := (List.mem_filter.1 hy).2
      simp only [decide_eq_true_eq] at hy
      rcases List.mem_append.1 hx with hx | hx
      · have hx := (List.mem_filter.1 hx).2
        simp only [decide_eq_true_eq] at hx
        omega
      · have hx := (List.mem_filter.1 hx).2
        simp only [decide_eq_true_eq, Bool.and_eq_true] at hx
        omega
  · intro e he
    rcases List.mem_append.1 he with he | he
    · rcases List.mem_append.1 he with he | he
      · exact hd.2 e (List.mem_filter.1 he).1
      · exact hs.2 e (List.mem_filter.1 he).1
    · exact hd.2 e (List.mem_filter.1 he).1

/-- Clearing the slots keeps the canonical form; a canonical view then lists nothing. -/
theorem outsideSlots_of_wf {c : Config} {i : Bool} {m : Memory} (h : m.wf c i = true) : m.outsideSlots c = [] := by
  rw [wf_iff] at h
  exact List.filter_eq_nil_iff.2 (fun e he => by simp [(h.2 e he).1])

theorem wf_outsideSlots {c : Config} {i j : Bool} {m : Memory} (h : m.wf c i = true) :
    (m.outsideSlots c).wf c j = true := by
  rw [outsideSlots_of_wf h, wf_nil]

/-- Writing the same run into a view that agrees, then copying the run over, makes the views agree. -/
theorem copyRange_writeRun_self (c : Config) (i : Bool) (m : Memory) (a : Nat) (bs : List Byte) :
    Memory.copyRange (m.writeRun c i a bs) m a bs.length = m.writeRun c i a bs := by
  unfold Memory.copyRange
  have key : (m.writeRun c i a bs).filter (fun e => decide (a ≤ e.1) && decide (e.1 < a + bs.length)) =
      (cellsFrom a bs).filter (fun e => unlistedByte c i e.1 != some e.2) := by
    unfold Memory.writeRun
    rw [List.filter_append, List.filter_append]
    have h1 : m.filter (fun e => decide (a ≤ e.1) && decide (e.1 < a + bs.length) && decide (e.1 < a)) = [] := by
      refine List.filter_eq_nil_iff.2 (fun e _ => ?_)
      simp only [Bool.and_eq_true, decide_eq_true_eq]
      omega
    have h2 : m.filter (fun e => decide (a ≤ e.1) && decide (e.1 < a + bs.length) && decide (a + bs.length ≤ e.1)) = [] := by
      refine List.filter_eq_nil_iff.2 (fun e _ => ?_)
      simp only [Bool.and_eq_true, decide_eq_true_eq]
      omega
    have h3 : ((cellsFrom a bs).filter (fun e => unlistedByte c i e.1 != some e.2)).filter
        (fun e => decide (a ≤ e.1) && decide (e.1 < a + bs.length)) =
        (cellsFrom a bs).filter (fun e => unlistedByte c i e.1 != some e.2) := by
      refine List.filter_eq_self.2 (fun e he => ?_)
      have := mem_cellsFrom (List.mem_filter.1 he).1
      simp only [Bool.and_eq_true, decide_eq_true_eq]
      omega
    rw [h3, List.filter_filter, List.filter_filter, h1, h2]
    simp
  rw [key]
  rfl

end Sys2Proof.Machine
end

