-- ==== Sys2Proof/Laws/Ops.lean ====
section
/-! SUPPORT. What each shared operation and each meaning can do, said once: if it answers `next t`, one of the listed
cases holds. Cite these rather than unfold a meaning. -/

namespace Sys2Proof.Machine

/-! ### Small facts -/

@[simp] theorem other_other (s : Slot) : s.other.other = s := by cases s <;> rfl

theorem other_ne (s : Slot) : s.other ≠ s := by cases s <;> decide

theorem eq_other_of_ne {s t : Slot} (h : s ≠ t) : s = t.other := by cases s <;> cases t <;> first | rfl | exact absurd rfl h

theorem waiting_iff (s : State) : s.waiting = true ↔ s.pend = true ∧ s.scan ≠ s.back := by
  simp [State.waiting]

/-- The code of a fault is 1 to 6 (60_exceptions.md R130). -/
theorem code_ne (cause : Cause) : cause.code ≠ 0 ∧ cause.code ≠ 7 := by cases cause <;> decide

/-! ### Dispatch steps of 30_encoding.md R67 -/

/-- A guarded command answers the refusal of a faulted block or what the command itself answers. -/
theorem unlessFaulted_next {s t : State} {run : Result} (h : unlessFaulted s run = .next t) :
    (s.faulted = true ∧ t = s.refuseFaulted) ∨ (s.faulted = false ∧ run = .next t) := by
  unfold unlessFaulted at h
  split at h
  · rename_i hf
    exact .inl ⟨hf, by injection h with h; exact h.symm⟩
  · rename_i hf
    exact .inr ⟨by simpa using hf, h⟩

theorem unlessFaulted_faulted {s : State} (run : Result) (h : s.faulted = true) :
    unlessFaulted s run = .next s.refuseFaulted := by simp [unlessFaulted, h]

theorem unlessFaulted_working {s : State} (run : Result) (h : s.faulted = false) : unlessFaulted s run = run := by
  simp [unlessFaulted, h]

/-- An illegal header: refused by a faulted block, else the fault entry with ILLEGAL_CMD. -/
theorem illegalCommand_cases (s : State) (header : Word) :
    (s.faulted = true ∧ s.illegalCommand header = s.refuseFaulted) ∨
      (s.faulted = false ∧ s.illegalCommand header = s.raiseFault .illegalCmd header) := by
  unfold State.illegalCommand
  cases h : s.faulted <;> simp

/-- The end a run is given is one that fits its state (70_reset_and_hazards.md R155). -/
theorem runEnd_fits {s : State} {e : RunEnd} (h : s.runEnd = some e) : s.endFits e = true := by
  unfold State.runEnd at h
  split at h
  · cases h
  · cases h
  · split at h
    · cases h
    · split at h
      · rename_i hf
        injection h with h
        exact h ▸ hf
      · split at h
        · rename_i hn
          injection h with h
          exact h ▸ hn
        · injection h with h
          exact h ▸ rfl

/-! ### The meanings -/

/-- Everything INIT can do (42_framesync.md R95). -/
theorem execInit_cases {s t : State} (h : execInit s = .next t) :
    (s.faulted = true ∧ t = s.refuseFaulted) ∨
    (s.faulted = false ∧ s.inited = true ∧ t = s.raiseFault .reinit Instr.init.header) ∨
    (s.faulted = false ∧ s.inited = false ∧ t = s.initialise.respond false 0) := by
  unfold execInit at h
  rcases unlessFaulted_next h with h | ⟨hf, h⟩
  · exact .inl h
  · split at h <;> injection h with h <;> subst h <;> simp_all

/-- Everything SCANLINE can do (41_compositor.md R85). -/
theorem execScanline_cases {line : Byte} {payload : List Word} {s t : State}
    (h : execScanline line payload s = .next t) :
    (s.faulted = true ∧ t = s.refuseFaulted) ∨
    (s.faulted = false ∧ s.inited = false ∧ t = s.raiseFault .notInit (Instr.scanline line payload).header) ∨
    (s.faulted = false ∧ s.inited = true ∧ s.cfg.h ≤ line.toNat ∧
      t = s.raiseFault .lineRange (Instr.scanline line payload).header) ∨
    (s.faulted = false ∧ s.inited = true ∧ line.toNat < s.cfg.h ∧ line ≠ s.lineNext ∧
      t = s.raiseFault .lineOrder (Instr.scanline line payload).header) ∨
    (s.faulted = false ∧ s.inited = true ∧ line.toNat < s.cfg.h ∧ line = s.lineNext ∧
      s.cfg.rowInSlot s.back line.toNat = true ∧ t = s.putScanline line payload) := by
  unfold execScanline at h
  rcases unlessFaulted_next h with h | ⟨hf, h⟩
  · exact .inl h
  · refine .inr ?_
    split at h
    · injection h with h; subst h; simp_all
    · split at h
      · injection h with h; subst h; simp_all
      · split at h
        · injection h with h; subst h; simp_all
        · split at h
          · injection h with h; subst h; simp_all
          · cases h

/-- Everything PRESENT can do, in flight or as it arrives (42_framesync.md R97 to R100). -/
theorem execPresent_cases {s t : State} (h : execPresent s = .next t) :
    (s.pend = true ∧ s.scan = s.back ∧ t = s.complete) ∨
    (s.pend = true ∧ s.scan ≠ s.back ∧ t = s) ∨
    (s.pend = false ∧ s.faulted = true ∧ t = s.refuseFaulted) ∨
    (s.pend = false ∧ s.faulted = false ∧ s.inited = false ∧ t = s.raiseFault .notInit Instr.present.header) ∨
    (s.pend = false ∧ s.faulted = false ∧ s.inited = true ∧ s.lineNext.toNat ≠ s.cfg.h ∧
      t = s.raiseFault .presentEarly Instr.present.header) ∨
    (s.pend = false ∧ s.faulted = false ∧ s.inited = true ∧ s.lineNext.toNat = s.cfg.h ∧ t = s.submit) := by
  unfold execPresent at h
  split at h
  · split at h <;> injection h with h <;> subst h <;> simp_all
  · rename_i hp
    rcases unlessFaulted_next h with ⟨hf, h⟩ | ⟨hf, h⟩
    · simp_all
    · split at h
      · injection h with h; subst h; simp_all
      · split at h <;> injection h with h <;> subst h <;> simp_all

/-- Everything SAMPLE can do (43_input.md R114). -/
theorem execSample_cases {raw : BitVec 16} {s t : State} (h : execSample raw s = .next t) :
    (s.faulted = true ∧ t = s.refuseFaulted) ∨ (s.faulted = false ∧ t = s.latch raw) := by
  unfold execSample at h
  rcases unlessFaulted_next h with h | ⟨hf, h⟩
  · exact .inl h
  · injection h with h
    exact .inr ⟨hf, h.symm⟩

/-! ### Turns -/

/-- Everything a turn of the block can do. -/
theorem blockTurn_cases {s t : State} (h : blockTurn s = .next t) :
    (s.pend = true ∧ exec .present s = .next t) ∨
    (s.pend = false ∧ ∃ i rest, decode s.cfg s.port = .command i rest ∧ exec i (s.withPort rest) = .next t) ∨
    (s.pend = false ∧ ∃ header why rest, decode s.cfg s.port = .illegal header why rest ∧
      t = (s.withPort rest).illegalCommand header) ∨
    (s.pend = false ∧ ∃ why, decode s.cfg s.port = .waiting why ∧ t = s) := by
  unfold blockTurn at h
  split at h
  · rename_i hp
    exact .inl ⟨hp, h⟩
  · rename_i hp
    simp only [Bool.not_eq_true] at hp
    refine .inr ?_
    split at h
    · rename_i i rest hd
      exact .inl ⟨hp, i, rest, hd, h⟩
    · rename_i header why rest hd
      injection h with h
      exact .inr (.inl ⟨hp, header, why, rest, hd, h.symm⟩)
    · rename_i why hd
      injection h with h
      exact .inr (.inr ⟨hp, why, hd, h.symm⟩)

/-- A reset inside a command is a reset with some words left at the port. -/
theorem resetInCommand_eq (s : State) : ∃ ws, s.resetInCommand = (s.withPort ws).resetInput := by
  unfold State.resetInCommand
  split
  · exact ⟨s.port, rfl⟩
  · exact ⟨_, rfl⟩

theorem resetDue_iff (s : State) : s.resetDue = true ↔ s.turnOf = .reset ∨ s.turnOf = .resetInCommand := by
  simp [State.resetDue]

/-- A step that answers a next state ran one turn of a well-formed configuration. -/
theorem step_cases {s t : State} (h : step s = .next t) :
    s.cfg.wf = true ∧
      ((s.turnOf = .block ∧ blockTurn s.dropTurn = .next t) ∨
       (s.turnOf = .display ∧ t = s.dropTurn.displayAccept) ∨
       (s.resetDue = true ∧ ∃ ws, t = (s.dropTurn.withPort ws).resetInput)) := by
  unfold step at h
  split at h
  · rename_i hw
    refine ⟨hw, ?_⟩
    unfold runStep runTurn at h
    split at h
    · rename_i ht
      exact .inl ⟨ht, h⟩
    · rename_i ht
      injection h with h
      exact .inr (.inl ⟨ht, h.symm⟩)
    · rename_i ht
      injection h with h
      exact .inr (.inr ⟨by simp [State.resetDue, ht], s.dropTurn.port, h.symm⟩)
    · rename_i ht
      injection h with h
      obtain ⟨ws, hws⟩ := resetInCommand_eq s.dropTurn
      exact .inr (.inr ⟨by simp [State.resetDue, ht], ws, by rw [← h, hws]⟩)
  · cases h

end Sys2Proof.Machine
end

