-- ==== Sys2Proof/Laws/Geometry.lean ====
section
/-! SUPPORT. What a well-formed configuration (00_scope.md R5) gives, as propositions. -/

namespace Sys2Proof

namespace Config

theorem k1_of_wf {c : Config} (h : c.wf = true) : 1 ≤ c.n ∧ 1 ≤ c.h ∧ c.h ≤ 255 := by
  simp only [wf, k1, Bool.and_eq_true, decide_eq_true_eq] at h
  omega

theorem pixBytes_of_wf {c : Config} (h : c.wf = true) : c.pixBytes = 1 ∨ c.pixBytes = 2 ∨ c.pixBytes = 4 := by
  simp only [wf, k2, Bool.and_eq_true, Bool.or_eq_true, beq_iff_eq] at h
  omega

theorem k3_of_wf {c : Config} (h : c.wf = true) : c.surfW ≤ c.stride ∧ 1 ≤ c.surfW ∧ 1 ≤ c.surfH := by
  simp only [wf, k3, Bool.and_eq_true, decide_eq_true_eq] at h
  omega

theorem k4_of_wf {c : Config} (h : c.wf = true) :
    c.baseOff % c.stride + c.n ≤ c.surfW ∧ c.baseOff / c.stride + c.h ≤ c.surfH := by
  simp only [wf, k4, Bool.and_eq_true, decide_eq_true_eq] at h
  exact h.1.1.1.2

theorem aligned_of_wf {c : Config} (h : c.wf = true) (s : Slot) : c.bufBase s % c.pixBytes = 0 := by
  simp only [wf, k5, Bool.and_eq_true, decide_eq_true_eq] at h
  cases s
  · exact h.1.1.2.1.1.1.1
  · exact h.1.1.2.1.1.1.2

theorem slot_le_of_wf {c : Config} (h : c.wf = true) (s : Slot) : c.bufBase s + c.slotBytes ≤ 2 ^ c.addrW := by
  simp only [wf, k5, Bool.and_eq_true, decide_eq_true_eq] at h
  cases s
  · exact h.1.1.2.1.1.2
  · exact h.1.1.2.1.2

/-- The two slots do not overlap. -/
theorem disjoint_of_wf {c : Config} (h : c.wf = true) (s : Slot) :
    c.bufBase s + c.slotBytes ≤ c.bufBase s.other ∨ c.bufBase s.other + c.slotBytes ≤ c.bufBase s := by
  simp only [wf, k5, Bool.and_eq_true, Bool.or_eq_true, decide_eq_true_eq] at h
  cases s
  · exact h.1.1.2.2
  · exact h.1.1.2.2.symm

/-- Different buttons have different joypad bits. -/
theorem joyBit_injective_of_wf {c : Config} (h : c.wf = true) {x y : Button} (hxy : c.joyBit.pos x = c.joyBit.pos y) :
    x = y := by
  simp only [wf, k6, Bool.and_eq_true, decide_eq_true_eq] at h
  have hn := h.1.2.1.1
  rw [List.nodup_map_iff_inj_on (by decide)] at hn
  exact hn x (by cases x <;> decide) y (by cases y <;> decide) hxy

theorem inSlot_iff (c : Config) (s : Slot) (a : Nat) :
    c.inSlot s a = true ↔ c.bufBase s ≤ a ∧ a < c.bufBase s + c.slotBytes := by
  simp [inSlot]

theorem inSlots_iff (c : Config) (a : Nat) : c.inSlots a = true ↔ ∃ s, c.inSlot s a = true := by
  simp only [inSlots, Bool.or_eq_true]
  constructor
  · rintro (h | h)
    exacts [⟨_, h⟩, ⟨_, h⟩]
  · rintro ⟨s, h⟩
    cases s <;> simp [h]

/-- No address lies in both slots. -/
theorem not_inSlot_other {c : Config} (h : c.wf = true) {s : Slot} {a : Nat} (ha : c.inSlot s a = true) :
    c.inSlot s.other a = false := by
  rw [inSlot_iff] at ha
  rw [Bool.eq_false_iff, Ne, inSlot_iff]
  have := disjoint_of_wf h s
  omega

end Config

namespace Machine

/-- Inside a slot of a well-formed configuration the background byte at offset `o` is byte `o mod PIX_BYTES` of `BG`. -/
theorem backgroundByte_inSlot {c : Config} (h : c.wf = true) {s : Slot} {a : Nat} (ha : c.inSlot s a = true) :
    backgroundByte c a = some (byteOf c.bg ((a - c.bufBase s) % c.pixBytes)) := by
  unfold backgroundByte
  cases s with
  | A => simp [ha, Config.bufBase]
  | B => simp [ha, Config.bufBase, show c.inSlot .A a = false from Config.not_inSlot_other h ha]

/-- After INIT every byte of a slot has a value. -/
theorem byteAt_isSome {c : Config} {m : Memory} {a : Nat} (ha : c.inSlots a = true) :
    ∃ v, Memory.byteAt c true m a = some v := by
  have hb : ∃ v, backgroundByte c a = some v := by
    unfold backgroundByte
    simp only [Config.inSlots, Bool.or_eq_true] at ha
    split
    · exact ⟨_, rfl⟩
    · rw [if_pos (by tauto)]
      exact ⟨_, rfl⟩
  obtain ⟨v, hv⟩ := hb
  rw [byteAt_eq]
  cases m.lookup a with
  | none => exact ⟨v, by simpa [unlistedByte] using hv⟩
  | some b => exact ⟨b, rfl⟩

end Machine

end Sys2Proof
end

