-- ==== Sys2Proof/Laws/Operands.lean ====
section
/-! SUPPORT. Lengths and entries of pixels and rows of pixels. -/

namespace Sys2Proof.Machine

@[simp] theorem pixelBytes_length (n : Nat) (v : Word) : (pixelBytes n v).length = n := by simp [pixelBytes]

theorem pixelBytes_getElem? (n : Nat) (v : Word) (k : Nat) :
    (pixelBytes n v)[k]? = if k < n then some (byteOf v k) else none := by
  by_cases h : k < n <;> simp [pixelBytes, h]

@[simp] theorem expand_length (pal : Palette) (row : List Byte) : (expand pal row).length = row.length := by simp [expand]

/-- A row of pixels takes `PIX_BYTES` bytes a pixel. -/
theorem rowPixels_length (n : Nat) (row : List Word) : (rowPixels n row).length = n * row.length := by
  induction row with
  | nil => rfl
  | cons v row ih =>
    simp only [rowPixels, List.flatMap_cons, List.length_append, pixelBytes_length, List.length_cons] at ih ⊢
    rw [ih]; ring

/-- Byte k of pixel x of a row is byte k of that pixel's value. -/
theorem rowPixels_getElem? (n : Nat) (row : List Word) (x k : Nat) (hk : k < n) :
    (rowPixels n row)[n * x + k]? = (row[x]?).map (fun v => byteOf v k) := by
  induction row generalizing x with
  | nil => simp [rowPixels]
  | cons v row ih =>
    simp only [rowPixels, List.flatMap_cons] at ih ⊢
    cases x with
    | zero =>
      rw [List.getElem?_append_left (by simpa using hk), Nat.mul_zero, Nat.zero_add, pixelBytes_getElem?, if_pos hk]
      rfl
    | succ x =>
      rw [List.getElem?_append_right (by simp [Nat.mul_succ]; omega)]
      have : n * (x + 1) + k - (pixelBytes n v).length = n * x + k := by simp [Nat.mul_succ]; omega
      rw [this, ih]
      simp

theorem rawRow_length_le (n : Nat) (payload : List Word) : (rawRow n payload).length ≤ n := by
  simp only [rawRow, List.length_take]
  omega

/-- A SCANLINE writes no more than the `N*PIX_BYTES` bytes of its row. -/
theorem scanlineBytes_length_le (s : State) (payload : List Word) : (s.scanlineBytes payload).length ≤ s.cfg.rowBytes := by
  unfold State.scanlineBytes Config.rowBytes
  rw [rowPixels_length, expand_length, Nat.mul_comm]
  exact Nat.mul_le_mul_right _ (rawRow_length_le _ _)

end Sys2Proof.Machine
end

