-- ==== Sys2Proof/Laws/Bits.lean ====
section
/-! SUPPORT. Single bits of placed fields, of slots as bits and of the joypad masks. -/

namespace Sys2Proof

theorem placed_getLsbD {n : Nat} (v : BitVec n) (pos k : Nat) :
    (placed v pos).getLsbD k = (decide (k < 32) && decide (pos ≤ k) && v.getLsbD (k - pos)) := by
  unfold placed
  rw [BitVec.getLsbD_shiftLeft, BitVec.getLsbD_setWidth]
  by_cases h : k < 32
  · have h' : k - pos < 32 := by omega
    by_cases h2 : pos ≤ k
    · simp [h, h', h2]
    · have h3 : k < pos := by omega
      simp [h, h2, h3]
  · simp [h]

/-- A field extended to a word has no bit at or above its width. -/
theorem setWidth_extract_high {n : Nat} (x : BitVec n) (start len : Nat) (h : n ≤ start) :
    (x.setWidth 32).extractLsb' start len = 0 := by
  apply BitVec.eq_of_getLsbD_eq
  intro k hk
  rw [BitVec.getLsbD_extractLsb', BitVec.getLsbD_setWidth, BitVec.getLsbD_of_ge x (start + k) (by omega)]
  simp

/-- A field extended to a word is its low bits. -/
theorem setWidth_extract_low {n : Nat} (x : BitVec n) (h : n ≤ 32) : (x.setWidth 32).extractLsb' 0 n = x := by
  apply BitVec.eq_of_getLsbD_eq
  intro k hk
  rw [BitVec.getLsbD_extractLsb', BitVec.getLsbD_setWidth, Nat.zero_add]
  simp only [hk, show k < 32 by omega, decide_true, Bool.true_and]

theorem slot_bit_getLsbD (s : Slot) (k : Nat) : s.bit.getLsbD k = (decide (k = 0) && s == .B) := by
  cases s <;> cases k <;> simp [Slot.bit]

namespace Machine

theorem setJoyBit_getLsbD (jp : BitVec 8) (k : Fin 8) (i : Fin 8) :
    (setJoyBit jp k).getLsbD i.val = (jp.getLsbD i.val || decide (i = k)) := by
  unfold setJoyBit
  rw [BitVec.getLsbD_or]
  congr 1
  revert k i; decide

theorem clearJoyBit_getLsbD (jp : BitVec 8) (k : Fin 8) (i : Fin 8) :
    (clearJoyBit jp k).getLsbD i.val = (jp.getLsbD i.val && decide (i ≠ k)) := by
  unfold clearJoyBit
  rw [BitVec.getLsbD_and]
  congr 1
  revert k i; decide

/-- Some raw bit of a role is set: the OR of R115 as a proposition. -/
theorem anyWithRole_iff (c : Config) (role : Role) (v : BitVec 16) :
    anyWithRole c role v = true ↔ ∃ r, r < 16 ∧ c.roleOf r = role ∧ v.getLsbD r = true := by
  simp [anyWithRole]

theorem pressEdges_getLsbD (prev cur : BitVec 16) (r : Nat) :
    (pressEdges prev cur).getLsbD r = (cur.getLsbD r && !prev.getLsbD r) := by
  unfold pressEdges
  by_cases h : r < 16
  · rw [BitVec.getLsbD_and, BitVec.getLsbD_not]
    simp only [h, decide_true, Bool.true_and]
  · rw [BitVec.getLsbD_of_ge _ r (by omega), BitVec.getLsbD_of_ge cur r (by omega)]
    rfl

theorem releaseEdges_getLsbD (prev cur : BitVec 16) (r : Nat) :
    (releaseEdges prev cur).getLsbD r = (prev.getLsbD r && !cur.getLsbD r) := pressEdges_getLsbD cur prev r

/-- A pass over the buttons that rewrites one button's bit at a time changes exactly that button's bit, when different
buttons have different bits. -/
theorem foldl_getLsbD {c : Config} (hc : c.wf = true) (f : BitVec 8 → Button → BitVec 8) (g : Button → Bool → Bool)
    (own : ∀ acc btn, (f acc btn).getLsbD (c.joyBit.pos btn).val = g btn (acc.getLsbD (c.joyBit.pos btn).val))
    (other : ∀ acc btn btn', btn' ≠ btn → c.joyBit.pos btn' ≠ c.joyBit.pos btn →
      (f acc btn).getLsbD (c.joyBit.pos btn').val = acc.getLsbD (c.joyBit.pos btn').val)
    (bs : List Button) (hn : bs.Nodup) (acc : BitVec 8) (btn : Button) :
    (bs.foldl f acc).getLsbD (c.joyBit.pos btn).val =
      if btn ∈ bs then g btn (acc.getLsbD (c.joyBit.pos btn).val) else acc.getLsbD (c.joyBit.pos btn).val := by
  induction bs generalizing acc with
  | nil => simp
  | cons x xs ih =>
    rw [List.nodup_cons] at hn
    rw [List.foldl_cons, ih hn.2]
    by_cases hb : btn = x
    · subst hb
      rw [if_neg hn.1, if_pos List.mem_cons_self, own]
    · rw [other acc x btn hb (fun h => hb (Config.joyBit_injective_of_wf hc h))]
      simp only [List.mem_cons, hb, false_or]

/-- The release pass, button by button (43_input.md R115). -/
theorem releasePass_getLsbD {c : Config} (hc : c.wf = true) (released held : BitVec 16) (jp : BitVec 8) (btn : Button) :
    (releasePass c released held jp).getLsbD (c.joyBit.pos btn).val =
      (jp.getLsbD (c.joyBit.pos btn).val || (anyWithRole c (.button btn) released && !anyWithRole c (.button btn) held)) := by
  unfold releasePass
  rw [foldl_getLsbD hc _ (fun btn v => v || (anyWithRole c (.button btn) released && !anyWithRole c (.button btn) held))]
  · rw [if_pos (by cases btn <;> decide)]
  · intro acc btn
    split
    · rename_i h; rw [setJoyBit_getLsbD, h]; simp
    · rename_i h; rw [Bool.eq_false_iff.2 h, Bool.or_false]
  · intro acc btn btn' _ hne
    split
    · rw [setJoyBit_getLsbD]; simp [hne]
    · rfl
  · decide

/-- The press pass, button by button (R115). -/
theorem pressPass_getLsbD {c : Config} (hc : c.wf = true) (pressed : BitVec 16) (jp : BitVec 8) (btn : Button) :
    (pressPass c pressed jp).getLsbD (c.joyBit.pos btn).val =
      (jp.getLsbD (c.joyBit.pos btn).val && !anyWithRole c (.button btn) pressed) := by
  unfold pressPass
  rw [foldl_getLsbD hc _ (fun btn v => v && !anyWithRole c (.button btn) pressed)]
  · rw [if_pos (by cases btn <;> decide)]
  · intro acc btn
    split
    · rename_i h; rw [clearJoyBit_getLsbD, h]; simp
    · rename_i h; rw [Bool.eq_false_iff.2 h, Bool.not_false, Bool.and_true]
  · intro acc btn btn' _ hne
    split
    · rw [clearJoyBit_getLsbD]; simp [hne]
    · rfl
  · decide

end Machine

end Sys2Proof
end

