-- ==== Sys2Proof/Laws/Rows.lean ====
section
/-! SUPPORT. The row of a scanline inside its slot, and what the frame store reads after SCANLINE and INIT, byte by
byte. -/

namespace Sys2Proof

/-- In a well-formed configuration the row of every line lies inside its slot (41_compositor.md R87, R91). -/
theorem Config.rowInSlot_of_wf {c : Config} (hw : c.wf = true) (slot : Slot) {line : Nat} (hl : line < c.h) :
    c.rowInSlot slot line = true := by
  have h4 := Config.k4_of_wf hw
  have h3 := Config.k3_of_wf hw
  have hrows : c.stride * (c.baseOff / c.stride + line) + c.stride ≤ c.stride * c.surfH := by
    rw [← Nat.mul_succ]
    exact Nat.mul_le_mul_left _ (by omega)
  have hpix : c.baseOff + c.stride * line + c.n ≤ c.stride * c.surfH := by
    have := Nat.mod_add_div c.baseOff c.stride
    rw [Nat.mul_add] at hrows
    omega
  have hbytes := Nat.mul_le_mul_left c.pixBytes hpix
  rw [Nat.mul_add c.pixBytes _ c.n, Nat.mul_comm c.pixBytes c.n] at hbytes
  unfold Config.rowInSlot
  rw [Bool.and_eq_true, decide_eq_true_iff, decide_eq_true_iff]
  unfold Config.rowAddr Config.pixAddr Config.rowBytes Config.slotBytes Config.slotPix
  rw [Nat.add_zero]
  omega

namespace Machine

/-- A byte of a line's row is a byte of its slot. -/
theorem inSlot_of_inRow {c : Config} (hw : c.wf = true) {slot : Slot} {line a : Nat} (hl : line < c.h)
    (h : InRow c slot line a) : c.inSlot slot a = true := by
  have := Config.rowInSlot_of_wf hw slot hl
  unfold Config.rowInSlot at this
  rw [Bool.and_eq_true, decide_eq_true_iff, decide_eq_true_iff] at this
  rw [Config.inSlot_iff]
  obtain ⟨h1, h2⟩ := h
  omega

/-- The payload of a well-formed SCANLINE holds a whole row. -/
theorem rawRow_length {c : Config} {payload : List Word} (h : payload.length = c.pw) : (rawRow c.n payload).length = c.n := by
  have four : (payload.flatMap wordContainers).length = 4 * payload.length := by
    clear h
    induction payload with
    | nil => rfl
    | cons w payload ih =>
      simp only [List.flatMap_cons, List.length_append, List.length_cons, ih]
      simp only [wordContainers, List.length_cons, List.length_nil]
      omega
  unfold rawRow
  rw [List.length_take, four, h]
  unfold Config.pw
  omega

/-- A well-formed SCANLINE writes exactly the bytes of its row. -/
theorem scanlineBytes_length (s : State) {payload : List Word} (h : payload.length = s.cfg.pw) :
    (s.scanlineBytes payload).length = s.cfg.rowBytes := by
  unfold State.scanlineBytes Config.rowBytes
  rw [rowPixels_length, expand_length, rawRow_length h, Nat.mul_comm]

/-- What the block has written, after the effect of a SCANLINE (41_compositor.md R85). -/
theorem writerByte_putScanline (s : State) (line : Byte) (payload : List Word) (a : Nat) :
    (s.putScanline line payload).writerByte a =
      if s.cfg.rowAddr s.back line.toNat ≤ a ∧ a < s.cfg.rowAddr s.back line.toNat + (s.scanlineBytes payload).length
      then (s.scanlineBytes payload)[a - s.cfg.rowAddr s.back line.toNat]? else s.writerByte a :=
  writerByte_writeBytes ..

/-- What the display sees, after the effect of a SCANLINE (R90). -/
theorem displayByte_putScanline (s : State) (line : Byte) (payload : List Word) (a : Nat) :
    (s.putScanline line payload).displayByte a =
      if s.cfg.rowAddr s.back line.toNat ≤ a ∧ a < s.cfg.rowAddr s.back line.toNat + s.cfg.rowBytes
      then (s.putScanline line payload).writerByte a else s.displayByte a :=
  displayByte_flush ..

/-- What the block has written, after the effect of INIT (42_framesync.md R95). -/
theorem writerByte_initialise (s : State) (a : Nat) :
    s.initialise.writerByte a = if s.cfg.inSlots a = true then backgroundByte s.cfg a else s.writerByte a := by
  show Memory.byteAt s.cfg true (s.memW.outsideSlots s.cfg) a = _
  rw [byteAt_outsideSlots]
  split
  · rfl
  · rename_i h
    rw [Bool.not_eq_true] at h
    unfold State.writerByte
    rw [byteAt_eq, byteAt_eq, unlistedByte_outside h, unlistedByte_outside h]

/-- What the display sees, after the effect of INIT (R95). -/
theorem displayByte_initialise (s : State) (a : Nat) :
    s.initialise.displayByte a = if s.cfg.inSlots a = true then backgroundByte s.cfg a else s.displayByte a := by
  show Memory.byteAt s.cfg true (Memory.copyRange (s.memW.outsideSlots s.cfg)
    (Memory.copyRange (s.memW.outsideSlots s.cfg) s.memD _ _) _ _) a = _
  rw [byteAt_copyRange, byteAt_copyRange, byteAt_outsideSlots]
  have hA := Config.inSlot_iff s.cfg .A a
  have hB := Config.inSlot_iff s.cfg .B a
  simp only [← hA, ← hB]
  by_cases h : s.cfg.inSlots a = true
  · simp only [h, if_true]
    rw [Config.inSlots, Bool.or_eq_true] at h
    split
    · rfl
    · rw [if_pos (by tauto)]; rfl
  · have h' := Bool.eq_false_iff.2 h
    rw [Config.inSlots, Bool.or_eq_false_iff] at h'
    rw [if_neg (by simp [h'.2]), if_neg (by simp [h'.1]), if_neg h]
    unfold State.displayByte
    rw [byteAt_eq, byteAt_eq, unlistedByte_outside (Bool.eq_false_iff.2 h), unlistedByte_outside (Bool.eq_false_iff.2 h)]

end Machine

end Sys2Proof
end

