-- ==== Sys2Proof/Laws/Frames.lean ====
section
/-! SUPPORT. What no command changes, and what the updates that touch neither the configuration, the palette, the frame
store nor the frame registers do to the invariant. -/

namespace Sys2Proof.Machine

/-- No command changes the configuration, the palette, the port, the schedule or the display's
fairness. -/
theorem exec_fixed {i : Instr} {s t : State} (h : exec i s = .next t) :
    t.cfg = s.cfg ∧ t.pal = s.pal ∧ t.port = s.port ∧ t.sched = s.sched ∧
      t.displayFair = s.displayFair := by
  cases i with
  | init => rcases execInit_cases h with ⟨_, rfl⟩ | ⟨_, _, rfl⟩ | ⟨_, _, rfl⟩ <;> exact ⟨rfl, rfl, rfl, rfl, rfl⟩
  | resolve => injection h with h; subst h; exact ⟨rfl, rfl, rfl, rfl, rfl⟩
  | scanline =>
    rcases execScanline_cases h with
      ⟨_, rfl⟩ | ⟨_, _, rfl⟩ | ⟨_, _, _, rfl⟩ | ⟨_, _, _, _, rfl⟩ | ⟨_, _, _, _, _, rfl⟩ <;> exact ⟨rfl, rfl, rfl, rfl, rfl⟩
  | present =>
    rcases execPresent_cases h with
      ⟨_, _, rfl⟩ | ⟨_, _, rfl⟩ | ⟨_, _, rfl⟩ | ⟨_, _, _, rfl⟩ | ⟨_, _, _, _, rfl⟩ | ⟨_, _, _, _, rfl⟩ <;>
      exact ⟨rfl, rfl, rfl, rfl, rfl⟩
  | sample => rcases execSample_cases h with ⟨_, rfl⟩ | ⟨_, rfl⟩ <;> exact ⟨rfl, rfl, rfl, rfl, rfl⟩
  | rdjoy => injection h with h; subst h; exact ⟨rfl, rfl, rfl, rfl, rfl⟩
  | rdstat => injection h with h; subst h; exact ⟨rfl, rfl, rfl, rfl, rfl⟩
  | rdfault => injection h with h; subst h; exact ⟨rfl, rfl, rfl, rfl, rfl⟩

/-- An illegal header changes only the fault registers and the responses. -/
theorem illegalCommand_fixed (s : State) (header : Word) :
    s.illegalCommand header = { s with
      faulted := (s.illegalCommand header).faulted
      fcause := (s.illegalCommand header).fcause
      fcmd := (s.illegalCommand header).fcmd
      responses := (s.illegalCommand header).responses } := by
  rcases illegalCommand_cases s header with ⟨_, h⟩ | ⟨_, h⟩ <;> rw [h] <;> rfl

/-! ### The step, turn by turn -/

theorem step_of_block {s : State} (hw : s.cfg.wf = true) (ht : s.turnOf = .block) : step s = blockTurn s.dropTurn := by
  unfold step
  rw [if_pos hw]
  unfold runStep runTurn
  rw [ht]

theorem step_of_display {s : State} (hw : s.cfg.wf = true) (ht : s.turnOf = .display) :
    step s = .next s.dropTurn.displayAccept := by
  unfold step
  rw [if_pos hw]
  unfold runStep runTurn
  rw [ht]

theorem step_of_reset {s : State} (hw : s.cfg.wf = true) (ht : s.turnOf = .reset) :
    step s = .next s.dropTurn.resetInput := by
  unfold step
  rw [if_pos hw]
  unfold runStep runTurn
  rw [ht]

theorem step_of_resetInCommand {s : State} (hw : s.cfg.wf = true) (ht : s.turnOf = .resetInCommand) :
    step s = .next s.dropTurn.resetInCommand := by
  unfold step
  rw [if_pos hw]
  unfold runStep runTurn
  rw [ht]

/-! ### Updates that keep the invariant -/

theorem inv_respond {s : State} (h : Inv s) (err : Bool) (data : Word) : Inv (s.respond err data) :=
  ⟨h.1, h.2, h.3, h.4, h.5, h.6, h.7, h.8, h.9, h.10, h.11⟩

theorem inv_withPort {s : State} (h : Inv s) (ws : List Word) : Inv (s.withPort ws) :=
  ⟨h.1, h.2, h.3, h.4, h.5, h.6, h.7, h.8, h.9, h.10, h.11⟩

theorem inv_dropTurn {s : State} (h : Inv s) : Inv s.dropTurn :=
  ⟨h.1, h.2, h.3, h.4, h.5, h.6, h.7, h.8, h.9, h.10, h.11⟩

/-- The fault entry keeps the invariant while no PRESENT waits (60_exceptions.md R131). -/
theorem inv_raiseFault {s : State} (h : Inv s) (hp : s.pend = false) (cause : Cause) (header : Word) :
    Inv (s.raiseFault cause header) where
  cfg_wf := h.cfg_wf
  palette_fixed := h.palette_fixed
  store_wf := h.store_wf
  views_agree := h.views_agree
  line_le := h.line_le
  swap_gate := h.swap_gate
  waiting_frame := fun h' => absurd (hp.symm.trans h') (by decide)
  cause_code := ⟨⟨fun h' => (nomatch h'), fun h' => absurd h' (code_ne cause).1⟩, (code_ne cause).2⟩
  no_command_recorded := fun h' => nomatch h'
  before_init := h.before_init
  level_law := h.level_law

/-- A button's joypad bit after a sample: the release pass, then the press pass (43_input.md R115). -/
theorem joypadAfter_getLsbD {c : Config} (hc : c.wf = true) (prev cur : BitVec 16) (jp : BitVec 8) (btn : Button) :
    (joypadAfter c prev cur jp).getLsbD (c.joyBit.pos btn).val =
      ((jp.getLsbD (c.joyBit.pos btn).val ||
          (anyWithRole c (.button btn) (releaseEdges prev cur) && !anyWithRole c (.button btn) cur)) &&
        !anyWithRole c (.button btn) (pressEdges prev cur)) := by
  unfold joypadAfter
  rw [pressPass_getLsbD hc, releasePass_getLsbD hc]

/-- The OR of a role over a mask that is the union of two. -/
theorem anyWithRole_union (c : Config) (role : Role) {x y z : BitVec 16}
    (h : ∀ r, r < 16 → z.getLsbD r = (x.getLsbD r || y.getLsbD r)) :
    anyWithRole c role z = (anyWithRole c role x || anyWithRole c role y) := by
  rw [Bool.eq_iff_iff, Bool.or_eq_true]
  simp only [anyWithRole_iff]
  constructor
  · rintro ⟨r, h1, h2, h3⟩
    rw [h r h1, Bool.or_eq_true] at h3
    exact h3.imp (fun h3 => ⟨r, h1, h2, h3⟩) (fun h3 => ⟨r, h1, h2, h3⟩)
  · rintro (⟨r, h1, h2, h3⟩ | ⟨r, h1, h2, h3⟩)
    · exact ⟨r, h1, h2, by rw [h r h1, h3, Bool.true_or]⟩
    · exact ⟨r, h1, h2, by rw [h r h1, h3, Bool.or_true]⟩

end Sys2Proof.Machine
end

