-- ==== Sys2Proof/Laws/PerInstr.lean ====
section
/-! SUPPORT. Facts about every command as syntax, one lemma per constructor: family Framing says that a command's header
carries its opcode and that its words are as many as the header's opcode frames (30_encoding.md R60, R66). -/

namespace Sys2Proof.Laws.Framing

open Sys2Proof

/-- The opcode of a command (R66). -/
def opcodeOf : Instr → BitVec 4
  | .init => 0x1
  | .resolve _ => 0x2
  | .scanline _ _ => 0x3
  | .present => 0x4
  | .sample _ => 0x5
  | .rdjoy => 0x6
  | .rdstat => 0x7
  | .rdfault => 0x8

/-- The header carries the opcode, and the words of a well-formed command are as many as that opcode frames. -/
def Statement (i : Instr) : Prop :=
  opcode i.header = opcodeOf i ∧ ∀ c : Config, i.wf c = true → (encode i).length = frameLength c i.header

theorem init : Statement .init := ⟨by decide, fun _ _ => rfl⟩

theorem resolve (idx : Byte) : Statement (.resolve idx) := by
  have h : opcode (Instr.resolve idx).header = 0x2 := by revert idx; decide
  exact ⟨h, fun c _ => by rw [frameLength, h]; rfl⟩

theorem scanline (line : Byte) (payload : List Word) : Statement (.scanline line payload) := by
  have h : opcode (Instr.scanline line payload).header = 0x3 := by
    show opcode (0x30000000#32 ||| line.setWidth 32) = 0x3
    revert line; decide
  refine ⟨h, fun c hw => ?_⟩
  rw [frameLength, h]
  simp only [Instr.wf, beq_iff_eq] at hw
  simp only [encode, Instr.payload, List.length_cons, hw, if_true]
  omega

theorem present : Statement .present := ⟨by decide, fun _ _ => rfl⟩

theorem sample (raw : BitVec 16) : Statement (.sample raw) := by
  have h : opcode (Instr.sample raw).header = 0x5 := by
    show (0x50000000#32 ||| raw.setWidth 32).extractLsb' 28 4 = 0x5
    rw [BitVec.extractLsb'_or, setWidth_extract_high raw 28 4 (by omega)]
    decide
  exact ⟨h, fun c _ => by rw [frameLength, h]; rfl⟩

theorem rdjoy : Statement .rdjoy := ⟨by decide, fun _ _ => rfl⟩

theorem rdstat : Statement .rdstat := ⟨by decide, fun _ _ => rfl⟩

theorem rdfault : Statement .rdfault := ⟨by decide, fun _ _ => rfl⟩

end Sys2Proof.Laws.Framing
end

