-- ==== Sys2Proof/Tests/Slice0.lean ====
section
/-! SUPPORT. The model's own tests. Expected values are those of spec/95_test_vectors.md, whose section is named, or are
computed by hand from the named rule; and for every obligation with hypotheses a concrete state and operands that meet
them. -/

namespace Sys2Proof.Tests

open Sys2Proof Sys2Proof.Machine

/-! ### Small states in configuration TINY -/

/-- After reset. -/
def fresh : State := State.resetOf Config.tiny

/-- After INIT: nothing listed, every byte of both slots is background. -/
def ready : State := { fresh with inited := true }

/-- With both lines of the frame written (as far as the registers tell). -/
def full : State := { ready with lineNext := 2 }

/-- With PRESENT waiting for the display. -/
def held : State := { full with pend := true }

/-- With PRESENT accepted by the display and not yet complete. -/
def accepted : State := { held with scan := .A }

/-- After `INIT; SCANLINE 1` (95_test_vectors.md 2.6). -/
def dead : State := { ready with faulted := true, fcause := 5, fcmd := 0x30000001 }

def nextOf : Result → Option State
  | .next t => some t
  | .fault _ => none
  | .refused _ => none

/-- The newest response and the status word of the state a command leads to. -/
def seen (r : Result) : Option (Bool × Word × Word) :=
  (nextOf r).bind (fun t => t.responses.head?.map (fun a => (a.err, a.data, t.statusWord)))

/-- What the display sees at consecutive addresses. -/
def shown (r : Result) (a n : Nat) : Option (List (Option Byte)) :=
  (nextOf r).map (fun t => (List.range n).map (fun k => t.displayByte (a + k)))

/-- The joypad bitmask and the exit flag of the state a command leads to. -/
def pads (r : Result) : Option (BitVec 8 × Bool) := (nextOf r).map (fun t => (t.joypad, t.exitFlag))

/-! ### Well-formedness: the named configurations pass, one ill-formed term for each check is refused -/

theorem test_wf_default : Config.default.wf = true := by decide
theorem test_wf_tiny : Config.tiny.wf = true := by decide
theorem test_wf_k1_no_pixel : ({ Config.tiny with n := 0 } : Config).wf = false := by decide
theorem test_wf_k1_too_many_lines : ({ Config.tiny with h := 256, surfH := 300 } : Config).wf = false := by decide
theorem test_wf_k2_three_bytes : ({ Config.tiny with pixBytes := 3, bufBaseB := 96 } : Config).wf = false := by decide
theorem test_wf_k3_stride_below_width : ({ Config.tiny with stride := 5, baseOff := 0 } : Config).wf = false := by decide
theorem test_wf_k4_window_too_wide : ({ Config.tiny with n := 6 } : Config).wf = false := by decide
theorem test_wf_k4_window_at_the_edge : ({ Config.tiny with n := 5 } : Config).wf = true := by decide
theorem test_wf_k4_window_too_low : ({ Config.tiny with baseOff := 25 } : Config).wf = false := by decide
theorem test_wf_k5_slots_overlap : ({ Config.tiny with bufBaseB := 62 } : Config).wf = false := by decide
theorem test_wf_k5_misaligned : ({ Config.tiny with bufBaseB := 65 } : Config).wf = false := by decide
theorem test_wf_k5_address_width : ({ Config.tiny with addrW := 6 } : Config).wf = false := by decide
theorem test_wf_k6_same_bit_twice : ({ Config.tiny with joyBit := { defaultJoyBits with a := 1 } } : Config).wf = false := by
  decide
theorem test_wf_k6_no_exit : ({ Config.tiny with map := List.replicate 16 .unused } : Config).wf = false := by decide
theorem test_wf_k7_wide_background : ({ Config.tiny with bg := 0x10000 } : Config).wf = false := by decide
theorem test_wf_scanline_without_payload : (Instr.scanline 0 []).wf Config.tiny = false := by decide
theorem test_wf_scanline_too_long : (Instr.scanline 0 [0, 0]).wf Config.tiny = false := by decide
theorem test_step_refuses_ill_formed : step { fresh with cfg := { Config.tiny with n := 0 } } = .refused .illFormedConfig := rfl

/-! ### Decoding: words written out from 30_encoding.md R61 to R66 and 95_test_vectors.md 2.7 -/

theorem test_decode_init : decodeTableWord 32 0b0001_0000_0000_0000_0000_0000_0000_0000 = some .init := by decide
theorem test_decode_resolve :
    decodeTableWord 32 0b0010_0000_0000_0000_0000_0000_1111_1110 = some (.resolve 0xFE) := by decide
theorem test_decode_scanline :
    decode Config.tiny [0b0011_0000_0000_0000_0000_0000_0000_0001, 0xFF060504, 0x70000000]
      = .command (.scanline 1 [0xFF060504]) [0x70000000] := by decide
theorem test_decode_scanline_default :
    decodeTableWord 32 0x300000FF = some (.scanline 255 (List.replicate 40 0)) := by decide
theorem test_decode_present : decodeTableWord 32 0b0100_0000_0000_0000_0000_0000_0000_0000 = some .present := by decide
theorem test_decode_sample :
    decodeTableWord 32 0b0101_0000_0000_0000_1000_0000_0000_0010 = some (.sample 0x8002) := by decide
theorem test_decode_rdjoy : decodeTableWord 32 0b0110_0000_0000_0000_0000_0000_0000_0000 = some .rdjoy := by decide
theorem test_decode_rdstat : decodeTableWord 32 0b0111_0000_0000_0000_0000_0000_0000_0000 = some .rdstat := by decide
theorem test_decode_rdfault : decodeTableWord 32 0b1000_0000_0000_0000_0000_0000_0000_0000 = some .rdfault := by decide
theorem test_decode_reserved : decode Config.tiny [0x90000000, 5] = .illegal 0x90000000 .reservedOpcode [5] := by decide
theorem test_decode_zero : decode Config.tiny [0] = .illegal 0 .reservedOpcode [] := by decide
theorem test_decode_mbz_resolve : decode Config.tiny [0x20000100] = .illegal 0x20000100 .mbzSet [] := by decide
theorem test_decode_mbz_sample : decode Config.tiny [0x50010000] = .illegal 0x50010000 .mbzSet [] := by decide
theorem test_decode_mbz_present : decode Config.tiny [0x48000000] = .illegal 0x48000000 .mbzSet [] := by decide
theorem test_decode_illegal_scanline_eats_payload :
    decode Config.tiny [0x30000100, 0x10000000, 0x70000000] = .illegal 0x30000100 .mbzSet [0x70000000] := by decide
theorem test_decode_incomplete : decode Config.tiny [0x30000000] = .waiting .incomplete := by decide
theorem test_encode_scanline : encode (.scanline 1 [0x03020100]) = [0x30000001, 0x03020100] := by decide

/-! ### Script text (30_encoding.md R72, R73; 95_test_vectors.md 2.2, P1) -/

theorem test_script_row :
    (ScriptLine.scanline 1 [4, 5, 6, 255]).words Config.tiny = [0x30000001, 0xFF060504] := by decide
theorem test_script_fill : (ScriptLine.fill 0 2).words Config.tiny = [0x30000000, 0x02020202] := by decide
theorem test_script_framefill :
    (ScriptLine.frameFill 1).words Config.tiny = [0x30000000, 0x01010101, 0x30000001, 0x01010101] := by decide
theorem test_script_text :
    readLine Config.tiny "SCANLINE 0, [0 5 254 3] ; S1".toList = .line (.scanline 0 [0, 5, 254, 3]) := by decide

/-! ### One command at a time -/

/-- 2.3: INIT from reset. -/
theorem test_init : seen (exec .init fresh) = some (false, 0, 0x00004100) := by decide
/-- 2.3: the frame store after INIT. -/
theorem test_init_background : shown (exec .init fresh) 0x3E 4 = some [some 0x34, some 0x12, some 0x34, some 0x12] := by decide
/-- 2.1: containers are masked. -/
theorem test_resolve : seen (exec (.resolve 0xFE) fresh) = some (false, 0x000052AA, 0x00004000) := by decide
/-- 2.2: registers after SCANLINE 0. -/
theorem test_scanline : seen (exec (.scanline 0 [0x03020100]) ready) = some (false, 0, 0x00004101) := by decide
/-- 2.2: bytes 0x11 to 0x1A after SCANLINE 0. -/
theorem test_scanline_bytes : shown (exec (.scanline 0 [0x03020100]) ready) 0x11 10 =
    some [some 0x12, some 0xFF, some 0xFF, some 0x55, some 0xAD, some 0xAA, some 0x52, some 0, some 0, some 0x34] := by
  decide
/-- 2.3: submit. -/
theorem test_present_submit : (nextOf (exec .present full)).map State.statusWord = some 0x0000C102 := by decide
/-- 2.3: complete. -/
theorem test_present_complete : seen (exec .present accepted) = some (false, 0, 0x00002100) := by decide
/-- 2.4 row 8. -/
theorem test_sample : seen (exec (.sample 0x0060) { fresh with rawCur := 0x0091, joypad := 0x6E }) =
    some (false, 0x00910060, 0x00004000) := by decide
/-- 2.4 row 15: B handed over within one sample. -/
theorem test_sample_hand_over :
    pads (exec (.sample 0x0100) { fresh with rawCur := 0x00FF, joypad := 0x00 }) = some (0xFD, false) := by decide
/-- 2.4 row 9. -/
theorem test_sample_exit :
    pads (exec (.sample 0x0200) { fresh with rawCur := 0x0060, joypad := 0x9F }) = some (0xFF, true) := by decide
/-- 2.4: RDJOY from reset. -/
theorem test_rdjoy : seen (exec .rdjoy fresh) = some (false, 0x000000FF, 0x00004000) := by decide
/-- 2.5: RDSTAT after a fault. -/
theorem test_rdstat : seen (exec .rdstat dead) = some (false, 0x00005700, 0x00005700) := by decide
/-- 2.5: RDFAULT after a fault. -/
theorem test_rdfault : seen (exec .rdfault dead) = some (false, 0x30000001, 0x00005700) := by decide

/-! ### Faults (95_test_vectors.md 2.6) -/

theorem test_fault_not_init : seen (exec (.scanline 0 [0]) fresh) = some (true, 2, 0x00004A00) := by decide
theorem test_fault_reinit : seen (exec .init ready) = some (true, 3, 0x00004F00) := by decide
theorem test_fault_line_range : seen (exec (.scanline 2 [0]) ready) = some (true, 4, 0x00005300) := by decide
theorem test_fault_line_order : seen (exec (.scanline 1 [0]) ready) = some (true, 5, 0x00005700) := by decide
theorem test_fault_present_early : seen (exec .present ready) = some (true, 6, 0x00005B00) := by decide
theorem test_fault_refused : seen (exec (.sample 1) dead) = some (true, 5, 0x00005700) := by decide
theorem test_fault_illegal : seen (step (fresh.withFetchWord 32 0xF0000000)) = some (true, 1, 0x00004600) := by decide
theorem test_fault_keeps_header : (nextOf (exec .present ready)).map State.fcmd = some 0x40000000 := by decide

/-! ### Steps -/

/-- 2.7: the payload word 0x10000000 is no INIT, and the next command is behind it. -/
theorem test_step_framing :
    (nextOf (step { ready with port := [0x30000002, 0x10000000, 0x70000000] })).map State.port = some [0x70000000] := by decide
/-- 2.3: the display's accept step. -/
theorem test_step_accept : (nextOf (step held)).map State.statusWord = some 0x00008102 := by decide
/-- 2.8: reset while PRESENT waits. -/
theorem test_step_reset :
    (nextOf (step { held with sched := [.reset] })).map State.statusWord = some 0x00004000 := by decide
/-- 70_reset_and_hazards.md R150: reset inside a SCANLINE; the command is gone, without a response. -/
theorem test_step_reset_in_command :
    (nextOf (step { ready with sched := [.resetInCommand], port := [0x30000000, 0, 0x70000000] })).map
      (fun t => (t.statusWord, t.port, t.responses)) = some (0x00004000, [0x70000000], []) := by decide
/-- The host's question: the first step after reset runs the word placed. -/
theorem test_step_first : seen (step (State.reset.withFetchWord 32 0x10000000)) = some (false, 0, 0x00004100) := by decide
/-- 20_memory.md R45, log 2: a byte written back to the background is not listed any more. -/
theorem test_store_canonical :
    Memory.writeRun Config.tiny true [(0x12, 0xFF), (0x13, 0xFF)] 0x12 [0x34, 0x12] = [] := by decide

/-! ### The invariant at small states -/

/-- The invariant as a computation. -/
def invCheck (s : State) : Bool :=
  s.cfg.wf && decide (s.pal = s.cfg.palette) && s.memW.wf s.cfg s.inited && decide (s.memD = s.memW)
  && decide (s.lineNext.toNat ≤ s.cfg.h) && (s.pend || decide (s.scan = s.back.other))
  && (!s.pend || (s.inited && !s.faulted && decide (s.lineNext.toNat = s.cfg.h)))
  && decide ((s.faulted = false ↔ s.fcause = 0) ∧ s.fcause ≠ 7) && (s.faulted || decide (s.fcmd = 0))
  && (s.inited || decide (s.back = .A ∧ s.lineNext = 0 ∧ s.memW = []))
  && Button.all.all (fun btn =>
    s.joypad.getLsbD (s.cfg.joyBit.pos btn).val == !anyWithRole s.cfg (.button btn) s.rawCur)

theorem inv_of_check {s : State} (h : invCheck s = true) : Inv s := by
  unfold invCheck at h
  simp only [Bool.and_eq_true, decide_eq_true_eq, Bool.or_eq_true, Bool.not_eq_true', List.all_eq_true, beq_iff_eq] at h
  obtain ⟨⟨⟨⟨⟨⟨⟨⟨⟨⟨h1, h2⟩, h3⟩, h4⟩, h5⟩, h6⟩, h7⟩, h8⟩, h9⟩, h10⟩, h11⟩ := h
  exact {
    cfg_wf := h1, palette_fixed := h2, store_wf := h3, views_agree := h4, line_le := h5
    swap_gate := fun hp => h6.resolve_left (by simp [hp])
    waiting_frame := fun hp => by
      obtain ⟨⟨hi, hf⟩, hl⟩ := h7.resolve_left (by simp [hp])
      exact ⟨hi, hf, hl⟩
    cause_code := h8
    no_command_recorded := fun hf => h9.resolve_left (by simp [hf])
    before_init := fun hi => h10.resolve_left (by simp [hi])
    level_law := fun btn => h11 btn (by cases btn <;> decide) }

theorem inv_ready : Inv ready := inv_of_check (by decide)
theorem inv_full : Inv full := inv_of_check (by decide)
theorem inv_dead : Inv dead := inv_of_check (by decide)

/-- TINY with one line a frame. -/
def oneLine : Config := { Config.tiny with h := 1 }

/-! ### Witnesses: states and operands that meet the hypotheses of each obligation, clause by clause -/

theorem witness_DecodeOfEncode : (Instr.scanline 255 [0xFFFFFFFF]).wf Config.tiny = true := by decide

theorem witness_EncodeOfDecode : decode Config.tiny [0x5000FFFF, 7] = .command (.sample 0xFFFF) [7] := by decide

theorem witness_HeaderMatchesItsRow :
    frameLength Config.tiny 0x300000FF ≤ [0#32].length + 1 ∧ ⟨"SCANLINE", 0x30000000, 0xFFFFFF00⟩ ∈ opcodeTable := by decide

theorem witness_IllegalHeadersAreReservedOrNonzeroMbz :
    frameLength Config.tiny 0x30000100 ≤ [0#32].length + 1 ∧ ready.faulted = false := by decide

theorem witness_FramingConsumesByOpcodeAlone :
    ∃ s : State, s.cfg.wf = true ∧ s.pend = false ∧ s.turnOf = .block ∧ s.port = [0x30000000, 0] ∧
      (0x30000000#32).extractLsb' 28 4 = 0x3 ∧ (s.cfg.n + 3) / 4 ≤ [0#32].length :=
  ⟨{ ready with port := [0x30000000, 0] }, by decide⟩

theorem witness_FramingConsumesByOpcodeAlone_one :
    ∃ s : State, s.cfg.wf = true ∧ s.pend = false ∧ s.turnOf = .block ∧ s.port = [0xF0000000] ∧
      (0xF0000000#32).extractLsb' 28 4 ≠ 0x3 :=
  ⟨{ dead with port := [0xF0000000] }, by decide⟩

theorem witness_RawRowComesFromPayload : [0x03020100#32].length = (Config.tiny.n + 3) / 4 ∧ 3 < Config.tiny.n := by decide

theorem witness_FillIsUniformScanline : 255 < 256 ∧ (0 : Nat) < 256 := by decide

theorem witness_StepRunsDecodedCommand :
    ∃ s : State, s.cfg.wf = true ∧ s.pend = false ∧ s.turnOf = .block ∧
      decode s.cfg s.port = .command (.scanline 0 [0x03020100]) [0x70000000] :=
  ⟨{ ready with port := [0x30000000, 0x03020100, 0x70000000] }, by decide⟩

/-- Both branches: a working block and a faulted one; also FaultPriority's last clause. -/
theorem witness_StepAnswersIllegalHeader :
    (∃ s : State, s.cfg.wf = true ∧ s.pend = false ∧ s.turnOf = .block ∧ s.faulted = false ∧
      decode s.cfg s.port = .illegal 0x20000100 .mbzSet []) ∧
    (∃ s : State, s.cfg.wf = true ∧ s.pend = false ∧ s.turnOf = .block ∧ s.faulted = true ∧
      decode s.cfg s.port = .illegal 0x20000100 .mbzSet []) :=
  ⟨⟨{ ready with port := [0x20000100] }, by decide⟩, ⟨{ dead with port := [0x20000100] }, by decide⟩⟩

theorem witness_IdleBlockKeepsItsState :
    (∃ s : State, s.cfg.wf = true ∧ s.pend = false ∧ s.turnOf = .block ∧ s.port = []) ∧
    (∃ (s : State) (h : Word) (t : List Word), s.cfg.wf = true ∧ s.pend = false ∧ s.turnOf = .block ∧ s.port = h :: t ∧
      h.extractLsb' 28 4 = 0x3 ∧ t.length < (s.cfg.n + 3) / 4) :=
  ⟨⟨ready, by decide⟩, ⟨{ ready with port := [0x30000000] }, 0x30000000, [], by decide⟩⟩

/-- Reset taken while PRESENT waits, by a faulted block, and inside a SCANLINE. -/
theorem witness_ResetRestoresEveryRegister :
    (∃ s : State, s.cfg.wf = true ∧ s.resetDue = true ∧ s.pend = true) ∧
    (∃ s : State, s.cfg.wf = true ∧ s.resetDue = true ∧ s.faulted = true) ∧
    (∃ s : State, s.cfg.wf = true ∧ s.resetDue = true ∧ s.turnOf = .resetInCommand ∧ s.pend = false ∧
      decode s.cfg s.port = .command (.scanline 0 [0]) [0x70000000]) :=
  ⟨⟨{ held with sched := [.reset] }, by decide⟩, ⟨{ dead with sched := [.reset] }, by decide⟩,
    ⟨{ ready with sched := [.resetInCommand], port := [0x30000000, 0, 0x70000000] }, by decide⟩⟩

theorem witness_EveryStepAnswersNext : held.cfg.wf = true := by decide

theorem witness_InvariantHoldsAtReset : oneLine.wf = true := by decide

theorem witness_StepKeepsInvariant : ∃ s t : State, Inv s ∧ step s = .next t :=
  ⟨ready.withPort [0x30000000, 0x03020100], _, inv_withPort inv_ready _, rfl⟩

theorem witness_ConfigurationAndPaletteNeverChange :
    (∃ s t : State, step s = .next t ∧ s.pal = s.cfg.palette) ∧ ∃ s : State, Reachable Config.tiny s :=
  ⟨⟨held, _, rfl, rfl⟩, ⟨_, .step (.reset [0x10000000] [] true) rfl⟩⟩

/-- A reachable state with `PEND = 0` and one with `PEND = 1`. -/
theorem witness_ReachableStatesKeepTheSwapGate :
    oneLine.wf = true ∧ (∃ s, Reachable oneLine s ∧ s.pend = false) ∧ ∃ s, Reachable oneLine s ∧ s.pend = true :=
  ⟨by decide, ⟨_, .reset [] [] false, rfl⟩,
    ⟨_, .step (.step (.step (.reset [0x10000000, 0x30000000, 0, 0x40000000] [] false) rfl) rfl) rfl, rfl⟩⟩

theorem witness_FlagsAreStickyUntilReset :
    ∃ s t : State, s.resetDue = false ∧ step s = .next t ∧ s.inited = true ∧ s.exitFlag = true ∧ s.faulted = true :=
  ⟨{ dead with exitFlag := true, port := [0x10000000] }, _, by decide, rfl, rfl, rfl, rfl⟩

/-- A response with `err = 1` and one with `err = 0`. -/
theorem witness_OneResponsePerCommand :
    (∃ t, exec .init ready = .next t ∧ t.responses.head?.map Response.err = some true) ∧
    (∃ t, exec .init fresh = .next t ∧ t.responses.head?.map Response.err = some false) ∧
    (∃ t, exec .present full = .next t ∧ t.pend = true) :=
  ⟨⟨_, rfl, rfl⟩, ⟨_, rfl, rfl⟩, ⟨_, rfl, rfl⟩⟩

theorem witness_FaultEntryChangesOnlyFaultRegisters :
    ready.faulted = false ∧ ∃ t, exec .present ready = .next t ∧ t.faulted = true := ⟨rfl, _, rfl, rfl⟩

/-- Each clause; LINE_RANGE at its first line number and at 255, LINE_ORDER on both sides of `LINE_NEXT = 1`. -/
theorem witness_FaultPriority :
    (ready.faulted = false ∧ ready.inited = true) ∧ (fresh.faulted = false ∧ fresh.inited = false) ∧
    (ready.cfg.h ≤ (2#8).toNat ∧ ready.cfg.h ≤ (255#8).toNat) ∧
    (∃ s : State, s.faulted = false ∧ s.inited = true ∧ s.lineNext = 1 ∧ (0#8).toNat < s.cfg.h ∧ 0#8 ≠ s.lineNext) ∧
    ((1#8).toNat < ready.cfg.h ∧ 1#8 ≠ ready.lineNext) ∧
    (fresh.pend = false ∧ ready.pend = false ∧ ready.lineNext.toNat ≠ ready.cfg.h) :=
  ⟨by decide, by decide, by decide, ⟨{ ready with lineNext := 1 }, by decide⟩, by decide, by decide⟩

/-- A faulted block with a command it refuses, one it answers, and nothing at the port. -/
theorem witness_FaultedBlockRefuses :
    (∃ t, step (dead.withPort [0x50000001]) = .next t) ∧ (∃ t, step (dead.withPort [0x80000000]) = .next t) ∧
    (∃ t, step dead = .next t) ∧ dead.faulted = true ∧ dead.pend = false ∧ dead.turnOf = .block :=
  ⟨⟨_, rfl⟩, ⟨_, rfl⟩, ⟨_, rfl⟩, rfl, rfl, rfl⟩

/-- Positions U, F(0), C and X. -/
theorem witness_PositionsFollowProtocolTable :
    (Inv fresh ∧ fresh.position = .uninitialised) ∧ (Inv ready ∧ ready.position = .inFrame 0) ∧
    (Inv full ∧ full.position = .frameComplete) ∧ (Inv dead ∧ dead.position = .faulted) ∧
    (Instr.scanline 1 [0]).wf Config.tiny = true :=
  ⟨⟨inv_of_check (by decide), by decide⟩, ⟨inv_ready, by decide⟩, ⟨inv_full, by decide⟩, ⟨inv_dead, by decide⟩, by decide⟩

/-- The last line, the last pixel and its last byte. -/
theorem witness_ScanlineWritesExpandedRow :
    ∃ s : State, s.cfg.wf = true ∧ s.faulted = false ∧ s.inited = true ∧ (1#8) = s.lineNext ∧ (1#8).toNat < s.cfg.h ∧
      [0x03020100#32].length = (s.cfg.n + 3) / 4 ∧ 3 < s.cfg.n ∧ 1 < s.cfg.pixBytes ∧
      [0x03020100#32][3 / 4]? = some 0x03020100 :=
  ⟨{ ready with lineNext := 1 }, by decide⟩

/-- An address on either side of the row's first byte, in a run that writes and in one that faults. -/
theorem witness_ScanlineChangesOnlyItsRow :
    [0x03020100#32].length = (ready.cfg.n + 3) / 4 ∧ (∃ t, exec (.scanline 0 [0x03020100]) ready = .next t) ∧
    (∃ t, exec (.scanline 1 [0x03020100]) ready = .next t ∧ t.faulted = true) ∧
    (¬ InRow Config.tiny .A 0 0x11 ∧ InRow Config.tiny .A 0 0x12) :=
  ⟨by decide, ⟨_, rfl⟩, ⟨_, rfl, rfl⟩, by unfold InRow; decide⟩

theorem witness_RowsStayInsideTheirSlot : Config.default.wf = true ∧ 143 < Config.default.h ∧ 159 < Config.default.n := by decide

/-- The pixels in an order other than the rising one. -/
theorem witness_ScanlineAgreesWithPixelLoop :
    ready.cfg.wf = true ∧ ready.faulted = false ∧ ready.inited = true ∧ 0#8 = ready.lineNext ∧ (0#8).toNat < ready.cfg.h ∧
    [0x03020100#32].length = (ready.cfg.n + 3) / 4 ∧ [3, 0, 2, 1].Perm (List.range ready.cfg.n) ∧
    ∃ t, exec (.scanline 0 [0x03020100]) ready = .next t :=
  ⟨by decide, rfl, rfl, rfl, by decide, by decide, by decide, _, rfl⟩

/-- The last byte of the displayed slot while a scanline is written to the other. -/
theorem witness_DisplayedSlotIsNeverWritten :
    ∃ s t : State, Inv s ∧ s.inited = true ∧ s.resetDue = false ∧ step s = .next t ∧ s.cfg.inSlot s.scan 0x7F = true :=
  ⟨ready.withPort [0x30000000, 0x03020100], _, inv_withPort inv_ready _, rfl, by decide, rfl, by decide⟩

theorem witness_FrameStoreChangesOnlyByScanline :
    (Inv fresh ∧ fresh.inited = false ∧ fresh.faulted = false ∧ (∃ t, exec .init fresh = .next t) ∧
      fresh.cfg.inSlots 0 = true ∧ fresh.cfg.inSlots 0x7F = true ∧ fresh.cfg.inSlots 0x80 = false) ∧
    ∃ s t : State, Inv s ∧ s.inited = true ∧ s.resetDue = false ∧ step s = .next t ∧
      ∃ line payload rest, decode s.cfg s.port = .command (.scanline line payload) rest :=
  ⟨⟨inv_of_check (by decide), rfl, rfl, ⟨_, rfl⟩, by decide⟩,
    ready.withPort [0x30000000, 0x03020100], _, inv_withPort inv_ready _, rfl, by decide, rfl, 0, [0x03020100], [], by decide⟩

/-- The first byte of the displayed slot, and the byte before it. -/
theorem witness_DisplayReadsTheByteWritten :
    Inv ready ∧ ready.inited = true ∧ ready.cfg.inSlot ready.scan 0x40 = true ∧ ready.cfg.inSlot ready.scan 0x3F = false :=
  ⟨inv_ready, by decide⟩

/-- Also of InitAgreesWithPixelLoop. -/
theorem witness_InitEstablishesInitialState :
    fresh.faulted = false ∧ fresh.inited = false ∧ fresh.cfg.wf = true ∧ 31 < fresh.cfg.stride * fresh.cfg.surfH ∧
    1 < fresh.cfg.pixBytes ∧ fresh.cfg.inSlots 0x80 = false := by decide

theorem witness_InitAgreesWithPixelLoop :
    fresh.cfg.wf = true ∧ fresh.faulted = false ∧ fresh.inited = false ∧ ∃ t, exec .init fresh = .next t :=
  ⟨by decide, rfl, rfl, _, rfl⟩

theorem witness_PresentSubmitsCompleteFrame :
    full.pend = false ∧ full.faulted = false ∧ full.inited = true ∧ full.lineNext.toNat = full.cfg.h ∧ Inv full ∧
    full.cfg.inSlot full.back 0x3F = true := ⟨rfl, rfl, rfl, rfl, inv_full, by decide⟩

theorem witness_WaitingPresentChangesOnlyScan :
    held.cfg.wf = true ∧ held.pend = true ∧ held.scan ≠ held.back ∧ held.turnOf = .display ∧
    ({ held with sched := [.block] } : State).turnOf = .block := by decide

theorem witness_DisplayAcceptStep :
    (held.cfg.wf = true ∧ held.turnOf = .display ∧ held.pend = true ∧ held.scan ≠ held.back) ∧
    (accepted.pend = true ∧ accepted.scan = accepted.back ∧ ({ accepted with sched := [.display] } : State).turnOf = .display) ∧
    (full.pend = false ∧ ({ full with sched := [.display] } : State).turnOf = .display) := by decide

theorem witness_PresentCompletesWithSwap :
    (accepted.pend = true ∧ accepted.scan = accepted.back ∧ accepted.cfg.wf = true ∧ accepted.turnOf = .block) ∧
    (held.pend = true ∧ held.scan ≠ held.back) ∧ full.pend = false ∧ ∃ t, exec .present full = .next t :=
  ⟨by decide, by decide, rfl, _, rfl⟩

theorem witness_PresentThreeStepsReachOneStepForm :
    ∃ s : State, s.cfg.wf = true ∧ s.pend = false ∧ s.faulted = false ∧ s.inited = true ∧ s.lineNext.toNat = s.cfg.h ∧
      s.scan = s.back.other ∧ s.sched = [] ∧ s.displayFair = true ∧ s.port = [0x40000000, 0x70000000] :=
  ⟨{ full with port := [0x40000000, 0x70000000] }, by decide⟩

theorem witness_PresentHangsWithoutTheDisplay :
    ∃ s : State, s.cfg.wf = true ∧ s.pend = true ∧ s.scan ≠ s.back ∧ s.sched = [] ∧ s.displayFair = false :=
  ⟨{ held with displayFair := false }, by decide⟩

/-- No wait and a wait of two turns. -/
theorem witness_PresentCompletesAfterAnyWait :
    (held.cfg.wf = true ∧ held.pend = true ∧ held.scan = held.back.other) ∧
    ({ held with sched := [.display, .block] } : State).sched = List.replicate 0 .block ++ .display :: .block :: [] ∧
    ({ held with sched := [.block, .block, .display, .block] } : State).sched =
      List.replicate 2 .block ++ .display :: .block :: [] := by decide

/-- The three ways `BACK` changes: the swap, a reset, an INIT (in a state that no run reaches). -/
theorem witness_BackChangesOnlyBySwapInitOrReset :
    (∃ t, step accepted = .next t ∧ t.back ≠ accepted.back) ∧
    (∃ s t : State, s.sched = [.reset] ∧ step s = .next t ∧ t.back ≠ s.back) ∧
    (∃ s t : State, s.inited = false ∧ s.port = [0x10000000] ∧ step s = .next t ∧ t.back ≠ s.back) :=
  ⟨⟨_, rfl, by decide⟩, ⟨{ ready with back := .B, sched := [.reset] }, _, rfl, rfl, by decide⟩,
    ⟨{ fresh with back := .B, port := [0x10000000] }, _, rfl, rfl, rfl, by decide⟩⟩

theorem witness_ContainersAreMaskedToTwoBits : [0xFF060504#32].length = (Config.tiny.n + 3) / 4 := by decide

/-- A run in which one PRESENT completes; INIT, and the run of no step after it. -/
theorem witness_StrictAlternation :
    (fresh.inited = false ∧ fresh.faulted = false ∧ ∃ s, exec .init fresh = .next s ∧ CountedRun s 0 s) ∧
    held.inited = true ∧ (∃ t, CountedRun held 1 t) ∧ accepted.completesPresent = true ∧ ∃ t, step accepted = .next t :=
  have accept : CountedRun held 0 accepted := .next (k := 0) .start (by decide) rfl
  ⟨⟨rfl, rfl, _, rfl, .start⟩, rfl, ⟨accepted.complete, .next accept (by decide) rfl⟩, by decide, _, rfl⟩

/-- Also of SampleLatchesAndAnswers and SampleOfTheSameLevelsFindsNoEdge. -/
theorem witness_EdgeSetsAreTheBitwiseDifferences :
    ready.faulted = false ∧ ∃ t, exec (.sample 0x8001) ready = .next t := ⟨rfl, _, rfl⟩

theorem witness_SampleLatchesAndAnswers : ready.faulted = false ∧ fresh.faulted = false := by decide

theorem witness_SampleOfTheSameLevelsFindsNoEdge :
    ∃ s : State, s.faulted = false ∧ s.rawCur = 0x0035 := ⟨{ fresh with rawCur := 0x0035 }, rfl, rfl⟩

/-- Button B by raw bit 8: a press edge; a release edge with nothing held; a release edge while raw bit 1 is held; no
edge. -/
theorem witness_SampleUpdatesEachButton :
    (Config.tiny.wf = true ∧ Config.tiny.roleOf 8 = .button .b ∧ Config.tiny.roleOf 1 = .button .b) ∧
    ((0x0100#16).getLsbD 8 = true ∧ (0x0000#16).getLsbD 8 = false) ∧
    (∃ t, exec (.sample 0x0100) fresh = .next t) ∧
    (anyWithRole Config.tiny (.button .b) 0x0000 = false ∧ anyWithRole Config.tiny (.button .b) (releaseEdges 0x0100 0) = true) ∧
    (anyWithRole Config.tiny (.button .b) 0x0002 = true ∧ anyWithRole Config.tiny (.button .b) (pressEdges 0x0102 0x0002) = false
      ∧ (0x0102#16).getLsbD 8 = true ∧ (0x0002#16).getLsbD 8 = false) ∧
    (anyWithRole Config.tiny (.button .b) (pressEdges 0x0001 0x0001) = false ∧
      anyWithRole Config.tiny (.button .b) (releaseEdges 0x0001 0x0001) = false) :=
  ⟨by decide, by decide, ⟨_, rfl⟩, by decide, by decide, by decide⟩

/-- The exit bit pressed; and a second mask that differs in bits 9 and 15 only, which have no button. -/
theorem witness_SampleSetsExitOnPressEdge :
    fresh.faulted = false ∧ (∃ t, exec (.sample 0x0200) fresh = .next t) ∧ (∃ u, exec (.sample 0x8000) fresh = .next u) ∧
    (fresh.cfg.roleOf 9 = .exit ∧ (0x0200#16).getLsbD 9 = true ∧ fresh.rawCur.getLsbD 9 = false) ∧
    ∀ r, r < 16 → (∃ btn, fresh.cfg.roleOf r = .button btn) → (0x8000#16).getLsbD r = (0x0200#16).getLsbD r := by
  refine ⟨rfl, ⟨_, rfl⟩, ⟨_, rfl⟩, by decide, fun r hr h => ?_⟩
  obtain ⟨btn, h⟩ := h
  have ne9 : r ≠ 9 := by rintro rfl; cases h
  have ne15 : r ≠ 15 := by rintro rfl; cases h
  interval_cases r <;> first | rfl | omega

theorem witness_JoypadFollowsHeldLevels :
    Config.tiny.wf = true ∧ ∃ s, Reachable Config.tiny s ∧ s.rawCur = 0x0001 :=
  ⟨by decide, _, .step (.reset [0x50000001] [] true) rfl, rfl⟩

theorem witness_RdfaultAnswersFirstFaultingHeader :
    ready.faulted = false ∧ ∃ t, exec .init ready = .next t ∧ t.faulted = true := ⟨rfl, _, rfl, rfl⟩

theorem witness_OutputsAreTheRegisters : ∃ t, exec .rdstat held = .next t := ⟨_, rfl⟩

end Sys2Proof.Tests
end

/-! The swap gate of 10_state.md R29 and the edge sets of R25. -/

namespace Sys2Proof.Machine

/-! ### The swap registers `BACK`, `SCAN` and `PEND` -/

/-- Everything a command can do to the swap registers: nothing, INIT's values (42_framesync.md R95), the submit phase of
PRESENT (R98) or its complete phase (R100). -/
theorem exec_swapRegisters_cases {i : Instr} {s t : State} (h : exec i s = .next t) :
    (t.back = s.back ∧ t.scan = s.scan ∧ t.pend = s.pend) ∨
    (i = .init ∧ s.inited = false ∧ t.back = .A ∧ t.scan = .B ∧ t.pend = false) ∨
    (i = .present ∧ s.pend = false ∧ t.back = s.back ∧ t.scan = s.scan ∧ t.pend = true) ∨
    (i = .present ∧ s.pend = true ∧ s.scan = s.back ∧ t.back = s.back.other ∧ t.scan = s.scan ∧ t.pend = false) := by
  cases i with
  | init =>
    rcases execInit_cases h with ⟨_, rfl⟩ | ⟨_, _, rfl⟩ | ⟨_, hi, rfl⟩
    · exact .inl ⟨rfl, rfl, rfl⟩
    · exact .inl ⟨rfl, rfl, rfl⟩
    · exact .inr (.inl ⟨rfl, hi, rfl, rfl, rfl⟩)
  | scanline =>
    rcases execScanline_cases h with
      ⟨_, rfl⟩ | ⟨_, _, rfl⟩ | ⟨_, _, _, rfl⟩ | ⟨_, _, _, _, rfl⟩ | ⟨_, _, _, _, _, rfl⟩ <;> exact .inl ⟨rfl, rfl, rfl⟩
  | present =>
    rcases execPresent_cases h with
      ⟨hp, hs, rfl⟩ | ⟨_, _, rfl⟩ | ⟨_, _, rfl⟩ | ⟨_, _, _, rfl⟩ | ⟨_, _, _, _, rfl⟩ | ⟨hp, _, _, _, rfl⟩
    · exact .inr (.inr (.inr ⟨rfl, hp, hs, rfl, rfl, rfl⟩))
    · exact .inl ⟨rfl, rfl, rfl⟩
    · exact .inl ⟨rfl, rfl, rfl⟩
    · exact .inl ⟨rfl, rfl, rfl⟩
    · exact .inl ⟨rfl, rfl, rfl⟩
    · exact .inr (.inr (.inl ⟨rfl, hp, rfl, rfl, rfl⟩))
  | sample => rcases execSample_cases h with ⟨_, rfl⟩ | ⟨_, rfl⟩ <;> exact .inl ⟨rfl, rfl, rfl⟩
  | resolve | rdjoy | rdstat | rdfault => injection h with h; subst h; exact .inl ⟨rfl, rfl, rfl⟩

/-- (I-b) of R29: with `PEND = 0` the display reads the front slot. -/
def State.SwapGate (s : State) : Prop := s.pend = false → s.scan = s.front

/-- The swap gate depends on the swap registers alone. -/
theorem State.SwapGate.congr {s t : State} (hg : s.SwapGate) (hb : t.back = s.back) (hs : t.scan = s.scan)
    (hp : t.pend = s.pend) : t.SwapGate := by
  intro h
  rw [State.front, hb, hs]
  exact hg (hp ▸ h)

theorem exec_keeps_swapGate {i : Instr} {s t : State} (hg : s.SwapGate) (h : exec i s = .next t) : t.SwapGate := by
  rcases exec_swapRegisters_cases h with ⟨hb, hs, hp⟩ | ⟨_, _, hb, hs, _⟩ | ⟨_, _, _, _, hp⟩ | ⟨_, _, hacc, hb, hs, _⟩
  · exact hg.congr hb hs hp
  · intro _
    rw [State.front, hb, hs]
    rfl
  · exact fun h0 => absurd (hp.symm.trans h0) (by decide)
  · -- the display has accepted, so the slot that was back is the front slot after the exchange
    intro _
    rw [State.front, hs, hb, other_other, hacc]

theorem blockTurn_keeps_swapGate {s t : State} (hg : s.SwapGate) (h : blockTurn s = .next t) : t.SwapGate := by
  rcases blockTurn_cases h with
    ⟨_, h⟩ | ⟨_, _, rest, _, h⟩ | ⟨_, header, _, rest, _, rfl⟩ | ⟨_, _, _, rfl⟩
  · exact exec_keeps_swapGate hg h
  · exact exec_keeps_swapGate (hg.congr (t := s.withPort rest) rfl rfl rfl) h
  · rw [illegalCommand_fixed]
    exact hg.congr rfl rfl rfl
  · exact hg

/-- The display writes `SCAN` only while `PEND = 1` (42_framesync.md R101). -/
theorem displayAccept_keeps_swapGate {s : State} (hg : s.SwapGate) : s.displayAccept.SwapGate := by
  intro hp
  rw [displayAccept_pend] at hp
  have hw : ¬ s.waiting = true := by simp [waiting_iff, hp]
  rw [State.front, displayAccept_back, displayAccept_scan, if_neg hw]
  exact hg hp

theorem step_keeps_swapGate {s t : State} (hg : s.SwapGate) (h : step s = .next t) : t.SwapGate := by
  have hd : s.dropTurn.SwapGate := hg.congr rfl rfl rfl
  obtain ⟨_, ⟨_, h⟩ | ⟨_, rfl⟩ | ⟨_, ws, rfl⟩⟩ := step_cases h
  · exact blockTurn_keeps_swapGate hd h
  · exact displayAccept_keeps_swapGate hd
  · exact fun _ => rfl

theorem Reachable.swapGate {c : Config} {s : State} (hr : Reachable c s) : s.SwapGate := by
  induction hr with
  | reset => exact fun _ => rfl
  | step _ h ih => exact step_keeps_swapGate ih h

/-- (I-a) of R29: one slot is back, the other front. -/
theorem front_back_exclusive (s : State) :
    s.front ≠ s.back ∧ (s.front = .A ∨ s.back = .A) ∧ (s.front = .B ∨ s.back = .B) := by
  refine ⟨other_ne s.back, ?_⟩
  unfold State.front
  cases s.back <;> decide

theorem scan_eq_front_or_back (s : State) : s.scan = s.front ∨ s.scan = s.back := by
  by_cases h : s.scan = s.back
  · exact .inr h
  · exact .inl (eq_other_of_ne h)

/-- Settles O19: the swap gate holds at reset and every step keeps it. -/
theorem reachableStatesKeepTheSwapGate : Obligations.ReachableStatesKeepTheSwapGate :=
  fun _ s _ hr => ⟨front_back_exclusive s, hr.swapGate, fun _ => scan_eq_front_or_back s⟩

/-! ### The edge sets -/

/-- No raw bit is pressed and released at once. -/
theorem pressEdges_and_releaseEdges (prev cur : BitVec 16) : pressEdges prev cur &&& releaseEdges prev cur = 0 := by
  apply BitVec.eq_of_getLsbD_eq
  intro k _
  rw [BitVec.getLsbD_and, pressEdges_getLsbD, releaseEdges_getLsbD]
  cases prev.getLsbD k <;> cases cur.getLsbD k <;> simp

/-- The raw bits with an edge are those that changed (43_input.md R120 L-c). -/
theorem pressEdges_or_releaseEdges (prev cur : BitVec 16) : pressEdges prev cur ||| releaseEdges prev cur = cur ^^^ prev := by
  apply BitVec.eq_of_getLsbD_eq
  intro k _
  rw [BitVec.getLsbD_or, BitVec.getLsbD_xor, pressEdges_getLsbD, releaseEdges_getLsbD]
  cases prev.getLsbD k <;> cases cur.getLsbD k <;> rfl

/-- Bits [31:16] of SAMPLE's response (30_encoding.md R68). -/
theorem edgeWord_high (released pressed : BitVec 16) : (edgeWord released pressed).extractLsb' 16 16 = released := by
  apply BitVec.eq_of_getLsbD_eq
  intro k hk
  rw [BitVec.getLsbD_extractLsb', edgeWord, BitVec.getLsbD_or, placed_getLsbD, placed_getLsbD,
    BitVec.getLsbD_of_ge pressed (16 + k - 0) (by omega), Nat.add_sub_cancel_left]
  simp only [hk, show 16 + k < 32 by omega, Nat.le_add_right, decide_true, Bool.true_and, Bool.and_false, Bool.or_false]

/-- Bits [15:0] of SAMPLE's response (R68). -/
theorem edgeWord_low (released pressed : BitVec 16) : (edgeWord released pressed).extractLsb' 0 16 = pressed := by
  apply BitVec.eq_of_getLsbD_eq
  intro k hk
  rw [BitVec.getLsbD_extractLsb', edgeWord, BitVec.getLsbD_or, placed_getLsbD, placed_getLsbD, Nat.zero_add, Nat.sub_zero]
  simp only [hk, show k < 32 by omega, show ¬ 16 ≤ k by omega, Nat.zero_le, decide_true, decide_false, Bool.true_and,
    Bool.and_false, Bool.false_and, Bool.false_or]

/-- SAMPLE on a working block answers the edge sets of the state it leads to (R25, 43_input.md R114). -/
theorem latch_responses_edges (s : State) (raw : BitVec 16) :
    (s.latch raw).responses = ⟨false, edgeWord (s.latch raw).edgeR (s.latch raw).edgeP⟩ :: s.responses := rfl

/-- Settles O45: the edge sets bit by bit, and the two halves of SAMPLE's response. -/
theorem edgeSetsAreTheBitwiseDifferences : Obligations.EdgeSetsAreTheBitwiseDifferences := by
  intro s
  refine ⟨rfl, rfl, pressEdges_and_releaseEdges .., pressEdges_or_releaseEdges .., fun raw t hf h => ?_⟩
  rcases execSample_cases h with ⟨hf', _⟩ | ⟨_, rfl⟩
  · exact absurd (hf.symm.trans hf') (by decide)
  · exact ⟨_, latch_responses_edges s raw, edgeWord_high .., edgeWord_low ..⟩

end Sys2Proof.Machine

/-! Who can change a byte of the frame store, 20_memory.md R56. -/

namespace Sys2Proof.Machine

/-! ### The bytes each operation leaves alone -/

theorem readsSame_displayAccept (s : State) (a : Nat) : ReadsSame s s.displayAccept a := by
  simp [ReadsSame, State.writerByte, State.displayByte]

theorem readsSame_illegalCommand (s : State) (header : Word) (a : Nat) : ReadsSame s (s.illegalCommand header) a := by
  rw [illegalCommand_fixed]
  exact ⟨rfl, rfl⟩

/-- The effect of a SCANLINE changes no byte outside the line's row in the back slot (41_compositor.md R89). -/
theorem readsSame_putScanline {s : State} {line : Byte} {a : Nat} (payload : List Word)
    (ha : ¬ InRow s.cfg s.back line.toNat a) : ReadsSame s (s.putScanline line payload) a := by
  unfold InRow at ha
  have hlen := scanlineBytes_length_le s payload
  constructor
  · rw [writerByte_putScanline, if_neg (by omega)]
  · rw [displayByte_putScanline, if_neg ha]

/-- The effect of INIT leaves the background in every byte of the slots, in both views (42_framesync.md R95). -/
theorem initialise_background {s : State} {a : Nat} (ha : s.cfg.inSlots a = true) :
    s.initialise.writerByte a = backgroundByte s.cfg a ∧ s.initialise.displayByte a = backgroundByte s.cfg a := by
  constructor
  · rw [writerByte_initialise, if_pos ha]
  · rw [displayByte_initialise, if_pos ha]

/-! ### What commands, turns and steps do to the frame store -/

/-- Everything a command can do to the frame store: nothing, the effect of INIT (R95), or the effect of a SCANLINE that
passed its checks (41_compositor.md R85). -/
theorem exec_frameStore_cases {i : Instr} {s t : State} (h : exec i s = .next t) :
    (∀ a, ReadsSame s t a) ∨
    (i = .init ∧ s.inited = false ∧ s.faulted = false ∧ t = s.initialise.respond false 0) ∨
    (∃ line payload, i = .scanline line payload ∧ s.inited = true ∧ s.faulted = false ∧ line.toNat < s.cfg.h ∧
      t = s.putScanline line payload) := by
  cases i with
  | init =>
    rcases execInit_cases h with ⟨_, rfl⟩ | ⟨_, _, rfl⟩ | ⟨hf, hi, rfl⟩
    · exact .inl fun _ => ⟨rfl, rfl⟩
    · exact .inl fun _ => ⟨rfl, rfl⟩
    · exact .inr (.inl ⟨rfl, hi, hf, rfl⟩)
  | scanline line payload =>
    rcases execScanline_cases h with
      ⟨_, rfl⟩ | ⟨_, _, rfl⟩ | ⟨_, _, _, rfl⟩ | ⟨_, _, _, _, rfl⟩ | ⟨hf, hi, hl, _, _, rfl⟩
    · exact .inl fun _ => ⟨rfl, rfl⟩
    · exact .inl fun _ => ⟨rfl, rfl⟩
    · exact .inl fun _ => ⟨rfl, rfl⟩
    · exact .inl fun _ => ⟨rfl, rfl⟩
    · exact .inr (.inr ⟨line, payload, rfl, hi, hf, hl, rfl⟩)
  | present =>
    rcases execPresent_cases h with
      ⟨_, _, rfl⟩ | ⟨_, _, rfl⟩ | ⟨_, _, rfl⟩ | ⟨_, _, _, rfl⟩ | ⟨_, _, _, _, rfl⟩ | ⟨_, _, _, _, rfl⟩ <;>
      exact .inl fun _ => ⟨rfl, rfl⟩
  | sample => rcases execSample_cases h with ⟨_, rfl⟩ | ⟨_, rfl⟩ <;> exact .inl fun _ => ⟨rfl, rfl⟩
  | resolve | rdjoy | rdstat | rdfault => injection h with h; subst h; exact .inl fun _ => ⟨rfl, rfl⟩

/-- After INIT a turn of the block changes the frame store only by the SCANLINE at the front of the port. -/
theorem blockTurn_frameStore_cases {s t : State} (hi : s.inited = true) (h : blockTurn s = .next t) :
    (∀ a, ReadsSame s t a) ∨
    ∃ line payload rest, decode s.cfg s.port = .command (.scanline line payload) rest ∧ s.pend = false ∧
      line.toNat < s.cfg.h ∧ t = (s.withPort rest).putScanline line payload := by
  rcases blockTurn_cases h with ⟨_, h⟩ | ⟨hp, i, rest, hd, h⟩ | ⟨_, header, _, rest, _, rfl⟩ | ⟨_, _, _, rfl⟩
  · rcases exec_frameStore_cases h with hsame | ⟨hne, _⟩ | ⟨_, _, hne, _⟩
    · exact .inl hsame
    · cases hne
    · cases hne
  · rcases exec_frameStore_cases h with hsame | ⟨_, hi', _⟩ | ⟨line, payload, rfl, _, _, hl, rfl⟩
    · exact .inl hsame
    · exact absurd (hi.symm.trans hi') (by decide)
    · exact .inr ⟨line, payload, rest, hd, hp, hl, rfl⟩
  · exact .inl (readsSame_illegalCommand (s.withPort rest) header)
  · exact .inl fun _ => ⟨rfl, rfl⟩

/-- After INIT and until reset a step changes the frame store only by the SCANLINE that the block takes from the port. -/
theorem step_frameStore_cases {s t : State} (hi : s.inited = true) (hr : s.resetDue = false) (h : step s = .next t) :
    (∀ a, ReadsSame s t a) ∨
    ∃ line payload rest, decode s.cfg s.port = .command (.scanline line payload) rest ∧ s.turnOf = .block ∧
      s.pend = false ∧ line.toNat < s.cfg.h ∧ t = (s.dropTurn.withPort rest).putScanline line payload := by
  obtain ⟨_, ⟨ht, h⟩ | ⟨_, rfl⟩ | ⟨hr', _⟩⟩ := step_cases h
  · rcases blockTurn_frameStore_cases (s := s.dropTurn) hi h with hsame | ⟨line, payload, rest, hd, hp, hl, rfl⟩
    · exact .inl hsame
    · exact .inr ⟨line, payload, rest, hd, ht, hp, hl, rfl⟩
  · exact .inl (readsSame_displayAccept s.dropTurn)
  · exact absurd (hr.symm.trans hr') (by decide)

/-! ### Before INIT -/

/-- Before INIT no byte has a value in either view (R56). -/
theorem Inv.no_value_before_init {s : State} (hs : Inv s) (hi : s.inited = false) (a : Nat) :
    s.writerByte a = none ∧ s.displayByte a = none := by
  obtain ⟨_, _, hW⟩ := hs.before_init hi
  have hD : s.memD = [] := hs.views_agree.trans hW
  unfold State.writerByte State.displayByte
  rw [hW, hD, hi]
  exact ⟨rfl, rfl⟩

/-- Settles O32: no value before INIT, the background after it, then only SCANLINE's own row. -/
theorem frameStoreChangesOnlyByScanline : Obligations.FrameStoreChangesOnlyByScanline := by
  intro s hs
  refine ⟨hs.no_value_before_init, fun t hi hf h a ha => ?_, fun t hi hr h a => ?_⟩
  · rcases execInit_cases h with ⟨hf', _⟩ | ⟨_, hi', _⟩ | ⟨_, _, rfl⟩
    · exact absurd (hf.symm.trans hf') (by decide)
    · exact absurd (hi.symm.trans hi') (by decide)
    · exact initialise_background ha
  · rcases step_frameStore_cases hi hr h with hsame | ⟨line, payload, rest, hd, ht, hp, hl, rfl⟩
    · exact .inl (hsame a)
    · by_cases hrow : InRow s.cfg s.back line.toNat a
      · exact .inr ⟨line, payload, rest, hd, ht, hp, hrow, line.toNat, hl, hrow⟩
      · exact .inl (readsSame_putScanline (s := s.dropTurn.withPort rest) payload hrow)

end Sys2Proof.Machine

/-! Framing and decoding of the command port: which headers are illegal (30_encoding.md R69), which opcode-table row a
header matches (R66), how many words a command takes (R60), which bits of a container are used (R64). -/

namespace Sys2Proof.Machine

open Laws.Framing (opcodeOf)

/-! ### Fields of a word as masks -/

/-- A field of a word is zero exactly when the word has no bit under the field's mask. -/
theorem extract_eq_zero_iff (w : Word) {pos len : Nat} (hfit : pos + len ≤ 32) :
    w.extractLsb' pos len = 0 ↔ w &&& placed (BitVec.allOnes len) pos = 0 := by
  constructor <;> intro h <;> apply BitVec.eq_of_getLsbD_eq <;> intro k hk
  · have hbit := congrArg (BitVec.getLsbD · (k - pos)) h
    rw [BitVec.getLsbD_and, placed_getLsbD, BitVec.getLsbD_allOnes]
    by_cases hin : pos ≤ k ∧ k - pos < len
    · have hw : w.getLsbD k = false := by simpa [hin, Nat.add_sub_of_le hin.1] using hbit
      simp [hw]
    · rw [not_and] at hin
      simp +contextual [hin]
  · have hbit := congrArg (BitVec.getLsbD · (pos + k)) h
    simp only [BitVec.getLsbD_and, placed_getLsbD, BitVec.getLsbD_allOnes] at hbit
    rw [BitVec.getLsbD_extractLsb']
    simpa [hk, show pos + k < 32 by omega] using hbit

/-- A word is its `OPC` and its low 28 bits. -/
theorem word_eq_iff_fields (v w : Word) : v = w ↔ opcode v = opcode w ∧ v.extractLsb' 0 28 = w.extractLsb' 0 28 := by
  refine ⟨fun h => by rw [h]; exact ⟨rfl, rfl⟩, fun ⟨hop, hlow⟩ => ?_⟩
  have hop' := congrArg BitVec.toNat hop
  have hlow' := congrArg BitVec.toNat hlow
  simp only [opcode, BitVec.extractLsb'_toNat, Nat.shiftRight_eq_div_pow] at hop' hlow'
  apply BitVec.eq_of_toNat_eq
  omega

theorem opcode_and (v w : Word) : opcode (v &&& w) = opcode v &&& opcode w := BitVec.extractLsb'_and

theorem opcode_or (v w : Word) : opcode (v ||| w) = opcode v ||| opcode w := BitVec.extractLsb'_or

/-- Under the mask of the `OPC` field and of must-be-zero bits `m`, a word agrees with a bare opcode exactly when its
`OPC` is that opcode and none of the bits `m` is 1. -/
theorem and_opcodeMask_eq_iff (w m : Word) (op : BitVec 4) (hm : opcode m = 0) :
    w &&& (0xF0000000 ||| m) = placed op 28 ↔ opcode w = op ∧ w &&& m = 0 := by
  have hop : opcode (placed op 28) = op := by revert op; decide
  have hlow : (placed op 28).extractLsb' 0 28 = 0 := by revert op; decide
  have hopAll : opcode (w &&& (0xF0000000 ||| m)) = opcode w := by
    rw [opcode_and, opcode_or, hm]
    exact BitVec.and_allOnes
  have hlowAll : (w &&& (0xF0000000 ||| m)).extractLsb' 0 28 = (w &&& m).extractLsb' 0 28 := by
    rw [BitVec.extractLsb'_and, BitVec.extractLsb'_or, BitVec.extractLsb'_and]
    exact congrArg _ BitVec.zero_or
  have hopMbz : opcode (w &&& m) = 0 := by
    rw [opcode_and, hm]
    exact BitVec.and_zero
  rw [word_eq_iff_fields, word_eq_iff_fields (w &&& m), hopAll, hlowAll, hopMbz, hop, hlow]
  exact and_congr_right fun _ => (and_iff_right (by decide)).symm

/-! ### Which headers are illegal -/

/-- The headers that R69 calls illegal. -/
def IllegalHeader (h : Word) : Prop := opcode h = 0 ∨ 9 ≤ (opcode h).toNat ∨ h &&& mbzMask (opcode h) ≠ 0

/-- A header of one of the eight opcodes is illegal exactly when a must-be-zero bit of its format is 1. -/
theorem illegalHeader_iff_mbz {h : Word} {op : BitVec 4} (hop : opcode h = op) (hrange : op ≠ 0 ∧ op.toNat < 9) :
    IllegalHeader h ↔ h &&& mbzMask op ≠ 0 := by
  rw [IllegalHeader, hop, or_iff_right hrange.1, or_iff_right (Nat.not_le_of_lt hrange.2)]

/-- A verdict that fits its header: a command of the header's opcode for a legal header, a rejection for an illegal one. -/
def VerdictFits (h : Word) (v : Verdict) : Prop :=
  (¬ IllegalHeader h ∧ ∃ i, v = .ok i ∧ opcodeOf i = opcode h) ∨ (IllegalHeader h ∧ ∃ why, v = .bad why)

theorem opcodeOf_range (i : Instr) : opcodeOf i ≠ 0 ∧ (opcodeOf i).toNat < 9 := by
  cases i <;> exact ⟨by simp [opcodeOf], by simp [opcodeOf]⟩

/-- A format of R61 to R65 whose must-be-zero bits are one field classifies the headers of its opcodes. -/
theorem verdictFits_of_format {h : Word} {i : Instr} {pos len : Nat} (hop : (opcode h).toNat = (opcodeOf i).toNat)
    (hfit : pos + len ≤ 32) (hmask : mbzMask (opcodeOf i) = placed (BitVec.allOnes len) pos) :
    VerdictFits h (if h.extractLsb' pos len = 0 then .ok i else .bad .mbzSet) := by
  replace hop : opcode h = opcodeOf i := BitVec.eq_of_toNat_eq hop
  have hill : IllegalHeader h ↔ ¬ h.extractLsb' pos len = 0 := by
    rw [illegalHeader_iff_mbz hop (opcodeOf_range i), hmask, extract_eq_zero_iff h hfit]
  by_cases hz : h.extractLsb' pos len = 0
  · rw [if_pos hz]
    exact .inl ⟨fun hi => hill.1 hi hz, i, rfl, hop.symm⟩
  · rw [if_neg hz]
    exact .inr ⟨hill.2 hz, _, rfl⟩

/-- The opcodes without a row in the opcode table (R69). -/
theorem reserved_of_no_arm : ∀ {op : BitVec 4}, op.toNat ≠ 1 → op.toNat ≠ 2 → op.toNat ≠ 3 → op.toNat ≠ 4 → op.toNat ≠ 5 →
    op.toNat ≠ 6 → op.toNat ≠ 7 → op.toNat ≠ 8 → op = 0 ∨ 9 ≤ op.toNat := by
  decide

/-- The decoder rejects the illegal headers and no other, and names a command of the header's opcode. -/
theorem decodeHeader_fits (h : Word) (payload : List Word) : VerdictFits h (decodeHeader h payload) := by
  unfold decodeHeader
  split
  case h_1 hop => exact verdictFits_of_format (i := .init) hop (by decide) rfl
  case h_2 hop => exact verdictFits_of_format (i := .resolve _) hop (by decide) rfl
  case h_3 hop => exact verdictFits_of_format (i := .scanline _ payload) hop (by decide) rfl
  case h_4 hop => exact verdictFits_of_format (i := .present) hop (by decide) rfl
  case h_5 hop => exact verdictFits_of_format (i := .sample _) hop (by decide) rfl
  case h_6 hop => exact verdictFits_of_format (i := .rdjoy) hop (by decide) rfl
  case h_7 hop => exact verdictFits_of_format (i := .rdstat) hop (by decide) rfl
  case h_8 hop => exact verdictFits_of_format (i := .rdfault) hop (by decide) rfl
  case h_9 h1 h2 h3 h4 h5 h6 h7 h8 =>
    exact .inr ⟨(reserved_of_no_arm h1 h2 h3 h4 h5 h6 h7 h8).imp_right .inl, _, rfl⟩

/-! ### Framing -/

variable {c : Config} {h : Word} {t : List Word}

theorem decode_of_ok {i : Instr} (hf : frameLength c h ≤ t.length + 1)
    (hd : decodeHeader h (t.take (frameLength c h - 1)) = .ok i) :
    decode c (h :: t) = .command i (t.drop (frameLength c h - 1)) := by
  rw [decode, if_neg (by omega), hd]

theorem decode_of_bad {why : Reject} (hf : frameLength c h ≤ t.length + 1)
    (hd : decodeHeader h (t.take (frameLength c h - 1)) = .bad why) :
    decode c (h :: t) = .illegal h why (t.drop (frameLength c h - 1)) := by
  rw [decode, if_neg (by omega), hd]

/-- Everything the decoder can answer on a header whose framed words are at hand; the words behind them are left (R60). -/
theorem decode_cases (hf : frameLength c h ≤ t.length + 1) :
    (¬ IllegalHeader h ∧ ∃ i, decode c (h :: t) = .command i (t.drop (frameLength c h - 1)) ∧ opcodeOf i = opcode h) ∨
    (IllegalHeader h ∧ ∃ why, decode c (h :: t) = .illegal h why (t.drop (frameLength c h - 1))) := by
  rcases decodeHeader_fits h (t.take (frameLength c h - 1)) with ⟨hl, i, hd, hop⟩ | ⟨hil, why, hd⟩
  · exact .inl ⟨hl, i, decode_of_ok hf hd, hop⟩
  · exact .inr ⟨hil, why, decode_of_bad hf hd⟩

theorem decode_illegal_iff (hf : frameLength c h ≤ t.length + 1) :
    (∃ why rest, decode c (h :: t) = .illegal h why rest) ↔ IllegalHeader h := by
  rcases decode_cases hf with ⟨hl, i, hd, _⟩ | ⟨hil, why, hd⟩
  · simp [hd, hl]
  · exact iff_of_true ⟨why, _, hd⟩ hil

theorem illegalCommand_of_working {s : State} (hf : s.faulted = false) (header : Word) :
    s.illegalCommand header = s.raiseFault .illegalCmd header := by
  rcases illegalCommand_cases s header with ⟨hf', _⟩ | ⟨_, heq⟩
  · exact absurd (hf.symm.trans hf') (by decide)
  · exact heq

/-- Settles O5: a header with its framed words at hand is either illegal in the sense of R69 or a command. -/
theorem illegalHeadersAreReservedOrNonzeroMbz : Obligations.IllegalHeadersAreReservedOrNonzeroMbz := by
  intro c h t hf
  refine ⟨decode_illegal_iff hf, ?_, fun s hs => illegalCommand_of_working hs h, ?_, ?_⟩
  · rcases decode_cases hf with ⟨_, i, hd, _⟩ | ⟨_, why, hd⟩
    · exact .inr ⟨i, _, hd⟩
    · exact .inl ⟨why, _, hd⟩
  · exact (decode_illegal_iff (by exact Nat.le_refl 1)).2 (.inl (by decide))
  · exact (decode_illegal_iff (by exact Nat.le_refl 1)).2 (.inr (.inl (by decide)))

/-! ### The rows of the opcode table -/

/-- The mask and the match of a row (R66): its opcode, and the must-be-zero bits of that opcode's format. -/
theorem opcodeTable_row {row : OpcodeRow} (hrow : row ∈ opcodeTable) :
    row.mask = 0xF0000000 ||| mbzMask (opcode row.pattern) ∧ row.pattern = placed (opcode row.pattern) 28 ∧
      opcode (mbzMask (opcode row.pattern)) = 0 ∧ opcode row.pattern ≠ 0 ∧ (opcode row.pattern).toNat < 9 := by
  revert row
  decide

/-- A header matches a row exactly when it is legal and has the row's opcode. -/
theorem matches_row_iff {row : OpcodeRow} (hrow : row ∈ opcodeTable) (h : Word) :
    h &&& row.mask = row.pattern ↔ ¬ IllegalHeader h ∧ opcode h = opcode row.pattern := by
  obtain ⟨hmask, hpat, hmbz, hrange⟩ := opcodeTable_row hrow
  have hfields := and_opcodeMask_eq_iff h _ (opcode row.pattern) hmbz
  rw [← hmask, ← hpat] at hfields
  rw [hfields, and_comm]
  exact and_congr_left fun hop => by rw [illegalHeader_iff_mbz hop hrange, not_not]

/-- A row names the commands of its opcode and no other. -/
theorem mnemonicOf_eq_iff {row : OpcodeRow} (hrow : row ∈ opcodeTable) (i : Instr) :
    mnemonicOf i = row.mnemonic ↔ opcodeOf i = opcode row.pattern := by
  revert row
  cases i <;> simp only [mnemonicOf, opcodeOf] <;> decide

/-- Settles O4: both sides say that the header is legal and has the row's opcode. -/
theorem headerMatchesItsRow : Obligations.HeaderMatchesItsRow := by
  intro c h t hf row hrow
  rw [matches_row_iff hrow]
  rcases decode_cases hf with ⟨hl, i, hd, hop⟩ | ⟨hil, why, hd⟩
  · simp [hd, hl, mnemonicOf_eq_iff hrow, hop]
  · simp [hd, hil]

/-! ### What a turn takes from the port -/

theorem blockTurn_of_command {s : State} {i : Instr} {rest : List Word} (hp : s.pend = false)
    (hd : decode s.cfg s.port = .command i rest) : blockTurn s = exec i (s.withPort rest) := by
  rw [blockTurn, hp, hd]
  rfl

theorem blockTurn_of_illegal {s : State} {header : Word} {why : Reject} {rest : List Word} (hp : s.pend = false)
    (hd : decode s.cfg s.port = .illegal header why rest) :
    blockTurn s = .next ((s.withPort rest).illegalCommand header) := by
  rw [blockTurn, hp, hd]
  rfl

theorem unlessFaulted_answers {s : State} {run : Result} (hrun : ∃ t, run = .next t) :
    ∃ t, unlessFaulted s run = .next t := by
  unfold unlessFaulted
  split
  · exact ⟨_, rfl⟩
  · exact hrun

/-- In a well-formed configuration every row lies in its slot, so SCANLINE answers a next state (41_compositor.md R87). -/
theorem execScanline_answers {s : State} (hw : s.cfg.wf = true) (line : Byte) (payload : List Word) :
    ∃ t, execScanline line payload s = .next t := by
  apply unlessFaulted_answers
  split
  · exact ⟨_, rfl⟩
  · split
    · exact ⟨_, rfl⟩
    next hl =>
      split
      · exact ⟨_, rfl⟩
      · rw [if_pos (Config.rowInSlot_of_wf hw s.back (Nat.lt_of_not_le hl))]
        exact ⟨_, rfl⟩

/-- In a well-formed configuration every command answers a next state. -/
theorem exec_answers {s : State} (hw : s.cfg.wf = true) (i : Instr) : ∃ t, exec i s = .next t := by
  cases i with
  | init => exact unlessFaulted_answers (by split <;> exact ⟨_, rfl⟩)
  | scanline line payload => exact execScanline_answers hw line payload
  | present =>
    simp only [exec, execPresent]
    split
    · split <;> exact ⟨_, rfl⟩
    · apply unlessFaulted_answers
      split
      · exact ⟨_, rfl⟩
      · split <;> exact ⟨_, rfl⟩
  | sample => exact unlessFaulted_answers ⟨_, rfl⟩
  | resolve | rdjoy | rdstat | rdfault => exact ⟨_, rfl⟩

/-- A turn of the block with a whole command at the port, legal or not, takes the words framed with its header. -/
theorem blockTurn_consumes {s : State} (hw : s.cfg.wf = true) (hp : s.pend = false) (hport : s.port = h :: t)
    (hf : frameLength s.cfg h ≤ t.length + 1) :
    ∃ u, blockTurn s = .next u ∧ u.port = t.drop (frameLength s.cfg h - 1) := by
  rcases decode_cases hf with ⟨_, i, hd, _⟩ | ⟨_, why, hd⟩ <;> rw [← hport] at hd
  · obtain ⟨u, hu⟩ := exec_answers (s := s.withPort (t.drop (frameLength s.cfg h - 1))) hw i
    obtain ⟨_, _, hleft, _⟩ := exec_fixed hu
    exact ⟨u, by rw [blockTurn_of_command hp hd, hu], hleft⟩
  · refine ⟨_, blockTurn_of_illegal hp hd, ?_⟩
    rw [illegalCommand_fixed]
    rfl

theorem frameLength_of_scanline (c : Config) (hop : opcode h = 0x3) : frameLength c h = 1 + c.pw := if_pos hop

theorem frameLength_of_other (c : Config) (hop : opcode h ≠ 0x3) : frameLength c h = 1 := if_neg hop

/-- Settles O6: a step takes the words its header's opcode frames, whatever becomes of the command. -/
theorem framingConsumesByOpcodeAlone : Obligations.FramingConsumesByOpcodeAlone := by
  intro s h t hw hp ht hport
  have hconsumes := blockTurn_consumes (s := s.dropTurn) (h := h) (t := t) hw hp hport
  rw [step_of_block hw ht]
  constructor
  · intro hop hlen
    have hfl : frameLength s.dropTurn.cfg h = 1 + (s.cfg.n + 3) / 4 := frameLength_of_scanline s.cfg hop
    rw [hfl, Nat.add_sub_cancel_left] at hconsumes
    exact hconsumes (by omega)
  · intro hop
    have hfl : frameLength s.dropTurn.cfg h = 1 := frameLength_of_other s.cfg hop
    rw [hfl] at hconsumes
    exact hconsumes (Nat.le_add_left 1 t.length)

/-! ### The used bits of a container -/

theorem colourIndex_masked (container : Byte) : colourIndex (container &&& 0b11) = colourIndex container := by
  revert container
  decide

theorem resolve_masked (pal : Palette) (container : Byte) : resolve pal (container &&& 0b11) = resolve pal container := by
  rw [resolve, colourIndex_masked]
  rfl

/-- A payload word masked container by container holds the masked containers. -/
theorem wordContainers_masked (w : Word) :
    wordContainers (w &&& 0x03030303) = (wordContainers w).map (fun k => k &&& 0b11) := by
  simp only [wordContainers, byteOf, BitVec.extractLsb'_and]
  rfl

/-- The native pixels of a row do not depend on the unused bits of its containers. -/
theorem expand_rawRow_masked (pal : Palette) (n : Nat) (payload : List Word) :
    expand pal (rawRow n (payload.map (fun w => w &&& 0x03030303))) = expand pal (rawRow n payload) := by
  simp only [expand, rawRow, List.map_take, List.flatMap_map, List.map_flatMap, wordContainers_masked, List.map_map,
    Function.comp_def, resolve_masked]

/-- A SCANLINE depends on its payload through the bytes it writes alone. -/
theorem execScanline_congr {s : State} {payload payload' : List Word} (line : Byte)
    (hb : s.scanlineBytes payload = s.scanlineBytes payload') :
    execScanline line payload s = execScanline line payload' s := by
  simp only [execScanline, State.putScanline, hb, Instr.header]

/-- Formats I and L read back the byte operand placed beside a bare opcode. -/
theorem decodeByteOperand_or {fixed : Word} (b : Byte) (f : Byte → Instr) (hmbz : fixed.extractLsb' 8 20 = 0)
    (hfield : fixed.extractLsb' 0 8 = 0) : decodeByteOperand (fixed ||| b.setWidth 32) f = .ok (f b) := by
  simp [decodeByteOperand, BitVec.extractLsb'_or, hmbz, hfield, setWidth_extract_high b 8 20 (Nat.le_refl 8),
    setWidth_extract_low b (by decide)]

theorem decodeHeader_resolve (idx : Byte) (payload : List Word) :
    decodeHeader (Instr.resolve idx).header payload = .ok (.resolve idx) := by
  rw [decodeHeader, (Laws.Framing.resolve idx).1]
  exact decodeByteOperand_or idx .resolve (by decide) (by decide)

theorem decodeHeader_scanline (line : Byte) (payload : List Word) :
    decodeHeader (Instr.scanline line payload).header payload = .ok (.scanline line payload) := by
  rw [decodeHeader, (Laws.Framing.scanline line payload).1]
  exact decodeByteOperand_or line (.scanline · payload) (by decide) (by decide)

/-- A command whose header is read back is decoded from its words, and what follows is left. -/
theorem decode_encode_of_header {i : Instr} (rest : List Word) (hlen : (encode i).length = frameLength c i.header)
    (hd : decodeHeader i.header i.payload = .ok i) : decode c (encode i ++ rest) = .command i rest := by
  have hfl : frameLength c i.header - 1 = i.payload.length := by rw [← hlen]; rfl
  have hframed : frameLength c i.header ≤ (i.payload ++ rest).length + 1 := by
    rw [← hlen, encode, List.length_cons, List.length_append]
    omega
  rw [encode, List.cons_append, decode_of_ok hframed (i := i)] <;> rw [hfl]
  · rw [List.drop_left]
  · rwa [List.take_left]

/-- Settles O8: the colour index is all that RESOLVE and SCANLINE take from a container, and every container decodes. -/
theorem containersAreMaskedToTwoBits : Obligations.ContainersAreMaskedToTwoBits := by
  refine ⟨fun idx s => ?_, fun line payload s => ?_, fun c idx => ?_, fun c line payload hlen => ?_⟩
  · simp only [exec, execResolve, resolve_masked]
  · refine execScanline_congr line ?_
    simp only [State.scanlineBytes, expand_rawRow_masked]
  · exact decode_encode_of_header [] ((Laws.Framing.resolve idx).2 c rfl) (decodeHeader_resolve idx [])
  · have hwf : (Instr.scanline line payload).wf c = true := beq_iff_eq.2 hlen
    rw [← List.append_nil (_ :: payload)]
    exact decode_encode_of_header [] ((Laws.Framing.scanline line payload).2 c hwf) (decodeHeader_scanline line payload)

end Sys2Proof.Machine

/-! The palette look-up and RESOLVE, 40_palette.md R80, R81. -/

namespace Sys2Proof.Machine

/-- R80: a container's colour index is its value modulo 4. -/
@[simp] theorem colourIndex_toNat (container : Byte) : (colourIndex container).toNat = container.toNat % 4 := by
  simp [colourIndex]

theorem palette_get_eq_ite (pal : Palette) (i : BitVec 2) :
    pal.get i = if i.toNat = 0 then pal.p0 else if i.toNat = 1 then pal.p1
      else if i.toNat = 2 then pal.p2 else pal.p3 := by
  obtain rfl | rfl | rfl | rfl : i = 0 ∨ i = 1 ∨ i = 2 ∨ i = 3 := by revert i; decide
  all_goals rfl

theorem resolve_eq_ite (pal : Palette) (container : Byte) :
    resolve pal container = if container.toNat % 4 = 0 then pal.p0 else if container.toNat % 4 = 1 then pal.p1
      else if container.toNat % 4 = 2 then pal.p2 else pal.p3 := by
  rw [resolve, palette_get_eq_ite, colourIndex_toNat]

/-- R81 over R80: RESOLVE responds with the look-up, whatever the state, and does nothing else. -/
theorem exec_resolve (idx : Byte) (s : State) : exec (.resolve idx) s = .next (s.respond false (resolve s.pal idx)) := rfl

/-- Settles O26: the response is the palette's look-up, which takes the index modulo 4. -/
theorem resolveAnswersPaletteEntry : Obligations.ResolveAnswersPaletteEntry := by
  intro idx s
  rw [exec_resolve, resolve_eq_ite, State.respond]

end Sys2Proof.Machine

/-! The frame of a SCANLINE, 41_compositor.md R89. -/

namespace Sys2Proof.Machine

/-! ### A fault or a refusal changes the fault registers and the responses alone -/

/-- `t` is `s`, faulted, with other fault registers and responses at most: what a fault entry (60_exceptions.md R131) and
the refusal of a faulted block (R133) have in common. -/
def FaultFrame (s t : State) : Prop :=
  t = { s with faulted := true, fcause := t.fcause, fcmd := t.fcmd, responses := t.responses }

theorem faultFrame_raiseFault (s : State) (cause : Cause) (header : Word) : FaultFrame s (s.raiseFault cause header) := rfl

theorem faultFrame_refuseFaulted {s : State} (hf : s.faulted = true) : FaultFrame s s.refuseFaulted := by
  unfold FaultFrame
  rw [← hf]
  rfl

/-- The fault frame holds the frame store, so every byte of both views keeps its value. -/
theorem FaultFrame.readsSame {s t : State} (h : FaultFrame s t) (a : Nat) : ReadsSame s t a := by
  rw [h]
  exact ⟨rfl, rfl⟩

/-! ### SCANLINE -/

/-- A SCANLINE faults or is refused within the fault frame, or takes effect on the line that is next (R85). -/
theorem execScanline_faultFrame_or_put {line : Byte} {payload : List Word} {s t : State}
    (h : execScanline line payload s = .next t) :
    FaultFrame s t ∨ (s.faulted = false ∧ line = s.lineNext ∧ t = s.putScanline line payload) := by
  rcases execScanline_cases h with
    ⟨hf, rfl⟩ | ⟨_, _, rfl⟩ | ⟨_, _, _, rfl⟩ | ⟨_, _, _, _, rfl⟩ | ⟨hf, _, _, hline, _, rfl⟩
  · exact .inl (faultFrame_refuseFaulted hf)
  · exact .inl (faultFrame_raiseFault s .notInit _)
  · exact .inl (faultFrame_raiseFault s .lineRange _)
  · exact .inl (faultFrame_raiseFault s .lineOrder _)
  · exact .inr ⟨hf, hline, rfl⟩

/-- Settles O28: a SCANLINE that takes effect writes its own row and `LINE_NEXT`, and any other SCANLINE stays within the
fault frame, which holds the whole frame store. -/
theorem scanlineChangesOnlyItsRow : Obligations.ScanlineChangesOnlyItsRow := by
  intro line payload s t _ h
  rcases execScanline_faultFrame_or_put h with hfault | ⟨hf, hline, rfl⟩
  · exact ⟨fun a _ => hfault.readsSame a, .inr ⟨hfault, hfault.readsSame⟩⟩
  · exact ⟨fun a => readsSame_putScanline payload, .inl ⟨rfl, hline, hf⟩⟩

end Sys2Proof.Machine

/-! The frame synchronizer: the display's accept step (42_framesync.md R101), the completion of PRESENT (R100) and the
strict alternation of the slots (R103). -/

namespace Sys2Proof.Machine

/-! ### The display's accept step -/

theorem displayAccept_of_waiting {s : State} (h : s.waiting = true) : s.displayAccept = { s with scan := s.back } := if_pos h

theorem displayAccept_of_not_waiting {s : State} (h : ¬ s.waiting = true) : s.displayAccept = s := if_neg h

/-- Settles O38: the display's turn is its accept step, which is enabled exactly while PRESENT waits. -/
theorem displayAcceptStep : Obligations.DisplayAcceptStep := by
  intro s hw ht
  rw [step_of_display hw ht]
  refine ⟨fun hp hs => ?_, fun _ hs => ?_, fun hp => ?_⟩
  · rw [displayAccept_of_waiting ((waiting_iff s.dropTurn).2 ⟨hp, hs⟩)]
    rfl
  · rw [displayAccept_of_not_waiting fun h => ((waiting_iff s.dropTurn).1 h).2 hs]
    rfl
  · rw [displayAccept_of_not_waiting fun h => absurd (hp.symm.trans ((waiting_iff s.dropTurn).1 h).1) (by decide)]
    rfl

/-! ### PRESENT in flight -/

/-- R100: the PRESENT in flight completes once the display has accepted. -/
theorem exec_present_of_accepted {s : State} (hp : s.pend = true) (hs : s.scan = s.back) :
    exec .present s = .next s.complete := by
  simp only [exec, execPresent, hp, hs, if_true]

/-- R99: until then it holds. -/
theorem exec_present_of_not_accepted {s : State} (hp : s.pend = true) (hs : s.scan ≠ s.back) :
    exec .present s = .next s := by
  simp only [exec, execPresent, hp, hs, if_true, if_false]

/-- After the exchange the display, which had accepted the back slot, reads the front slot (10_state.md R29). -/
theorem complete_scan_eq_front {s : State} (hs : s.scan = s.back) : s.complete.scan = s.complete.front := by
  rw [State.front, complete_back, other_other, complete_scan, hs]

theorem completesPresent_iff (s : State) :
    s.completesPresent = true ↔ s.turnOf = .block ∧ s.pend = true ∧ s.scan = s.back := by
  simp [State.completesPresent, and_assoc]

theorem blockTurn_of_pend {s : State} (hp : s.pend = true) : blockTurn s = exec .present s := if_pos hp

theorem step_of_completesPresent {s : State} (hw : s.cfg.wf = true) (h : s.completesPresent = true) :
    step s = .next s.dropTurn.complete := by
  obtain ⟨ht, hp, hs⟩ := (completesPresent_iff s).1 h
  rw [step_of_block hw ht, blockTurn_of_pend (s := s.dropTurn) hp]
  exact exec_present_of_accepted hp hs

/-- As PRESENT arrives, it may be refused, fault or be submitted; the roles and the line count stay (R97, R98). -/
theorem exec_present_of_not_pend {s t : State} (hp : s.pend = false) (h : exec .present s = .next t) :
    t.back = s.back ∧ t.lineNext = s.lineNext := by
  rcases execPresent_cases h with
    ⟨hp', _⟩ | ⟨hp', _⟩ | ⟨_, _, rfl⟩ | ⟨_, _, _, rfl⟩ | ⟨_, _, _, _, rfl⟩ | ⟨_, _, _, _, rfl⟩
  · exact absurd (hp.symm.trans hp') (by decide)
  · exact absurd (hp.symm.trans hp') (by decide)
  all_goals exact ⟨rfl, rfl⟩

/-- Settles O39: the next state of a PRESENT in flight is `State.complete` exactly when the display has accepted. -/
theorem presentCompletesWithSwap : Obligations.PresentCompletesWithSwap := by
  intro s
  refine ⟨fun hp hs => ?_, exec_present_of_not_accepted, fun hp _ => exec_present_of_not_pend hp⟩
  exact ⟨s.complete, exec_present_of_accepted hp hs, rfl, complete_scan_eq_front hs, rfl,
    fun hw ht => step_of_completesPresent hw ((completesPresent_iff s).2 ⟨ht, hp, hs⟩)⟩

/-! ### `INITED` is sticky until reset -/

/-- No command clears `INITED` (10_state.md R18). -/
theorem exec_keeps_inited {i : Instr} {s t : State} (hi : s.inited = true) (h : exec i s = .next t) : t.inited = true := by
  cases i with
  | init =>
    rcases execInit_cases h with ⟨_, rfl⟩ | ⟨_, _, rfl⟩ | ⟨_, _, rfl⟩
    · exact hi
    · exact hi
    · rfl
  | scanline =>
    rcases execScanline_cases h with
      ⟨_, rfl⟩ | ⟨_, _, rfl⟩ | ⟨_, _, _, rfl⟩ | ⟨_, _, _, _, rfl⟩ | ⟨_, _, _, _, _, rfl⟩ <;> exact hi
  | present =>
    rcases execPresent_cases h with
      ⟨_, _, rfl⟩ | ⟨_, _, rfl⟩ | ⟨_, _, rfl⟩ | ⟨_, _, _, rfl⟩ | ⟨_, _, _, _, rfl⟩ | ⟨_, _, _, _, rfl⟩ <;> exact hi
  | sample => rcases execSample_cases h with ⟨_, rfl⟩ | ⟨_, rfl⟩ <;> exact hi
  | resolve | rdjoy | rdstat | rdfault => injection h with h; subst h; exact hi

theorem blockTurn_keeps_inited {s t : State} (hi : s.inited = true) (h : blockTurn s = .next t) : t.inited = true := by
  rcases blockTurn_cases h with ⟨_, h⟩ | ⟨_, _, rest, _, h⟩ | ⟨_, header, _, rest, _, rfl⟩ | ⟨_, _, _, rfl⟩
  · exact exec_keeps_inited hi h
  · exact exec_keeps_inited (s := s.withPort rest) hi h
  · rw [illegalCommand_fixed]
    exact hi
  · exact hi

theorem step_keeps_inited {s t : State} (hi : s.inited = true) (hr : s.resetDue = false) (h : step s = .next t) :
    t.inited = true := by
  obtain ⟨_, ⟨_, h⟩ | ⟨_, rfl⟩ | ⟨hr', _⟩⟩ := step_cases h
  · exact blockTurn_keeps_inited (s := s.dropTurn) hi h
  · rw [displayAccept_inited]
    exact hi
  · exact absurd (hr.symm.trans hr') (by decide)

/-! ### After INIT the roles change by a completed PRESENT alone -/

/-- After INIT a command leaves `BACK` alone, except while a PRESENT that the display has accepted is in flight. -/
theorem exec_keeps_back_or_accepted {i : Instr} {s t : State} (hi : s.inited = true) (h : exec i s = .next t) :
    t.back = s.back ∨ (s.pend = true ∧ s.scan = s.back) := by
  rcases exec_swapRegisters_cases h with ⟨hb, _⟩ | ⟨_, hi', _⟩ | ⟨_, _, hb, _⟩ | ⟨_, hp, hs, _⟩
  · exact .inl hb
  · exact absurd (hi.symm.trans hi') (by decide)
  · exact .inl hb
  · exact .inr ⟨hp, hs⟩

theorem blockTurn_keeps_back_or_accepted {s t : State} (hi : s.inited = true) (h : blockTurn s = .next t) :
    t.back = s.back ∨ (s.pend = true ∧ s.scan = s.back) := by
  rcases blockTurn_cases h with ⟨_, h⟩ | ⟨_, _, rest, _, h⟩ | ⟨_, header, _, rest, _, rfl⟩ | ⟨_, _, _, rfl⟩
  · exact exec_keeps_back_or_accepted hi h
  · exact exec_keeps_back_or_accepted (s := s.withPort rest) hi h
  · rw [illegalCommand_fixed]
    exact .inl rfl
  · exact .inl rfl

theorem step_keeps_back {s t : State} (hi : s.inited = true) (hr : s.resetDue = false)
    (hc : ¬ s.completesPresent = true) (h : step s = .next t) : t.back = s.back := by
  obtain ⟨_, ⟨ht, h⟩ | ⟨_, rfl⟩ | ⟨hr', _⟩⟩ := step_cases h
  · rcases blockTurn_keeps_back_or_accepted (s := s.dropTurn) hi h with hb | hacc
    · exact hb
    · exact absurd ((completesPresent_iff s).2 ⟨ht, hacc⟩) hc
  · exact displayAccept_back s.dropTurn
  · exact absurd (hr.symm.trans hr') (by decide)

/-- The slot that is back after a completed PRESENT was front before it (42_framesync.md R103). -/
theorem step_exchanges_roles {s t : State} (hc : s.completesPresent = true) (h : step s = .next t) : t.back = s.front := by
  obtain ⟨hw, _⟩ := step_cases h
  obtain rfl : s.dropTurn.complete = t := by simpa only [step_of_completesPresent hw hc, Host.Outcome.next.injEq] using h
  rfl

/-! ### Strict alternation -/

theorem slotAfter_succ (k : Nat) (slot : Slot) : slotAfter (k + 1) slot = (slotAfter k slot).other := by
  unfold slotAfter
  by_cases hk : k % 2 = 0
  · rw [if_pos hk, if_neg (by omega)]
  · rw [if_neg hk, if_pos (by omega), other_other]

/-- Along a run without a reset from an initialised state, the block stays initialised and the back slot is exchanged once
per completed PRESENT. -/
theorem CountedRun.back_alternates {s t : State} {k : Nat} (hi : s.inited = true) (hrun : CountedRun s k t) :
    t.inited = true ∧ t.back = slotAfter k s.back := by
  induction hrun with
  | start => exact ⟨hi, rfl⟩
  | @next k t u _ hr h ih =>
    obtain ⟨hti, hback⟩ := ih
    refine ⟨step_keeps_inited hti hr h, ?_⟩
    by_cases hc : t.completesPresent = true
    · rw [if_pos hc, slotAfter_succ, ← hback]
      exact step_exchanges_roles hc h
    · rw [if_neg hc, ← hback]
      exact step_keeps_back hti hr hc h

theorem CountedRun.roles_alternate {s t : State} {k : Nat} (hi : s.inited = true) (hrun : CountedRun s k t) :
    t.back = slotAfter k s.back ∧ t.front = slotAfter (k + 1) s.back := by
  obtain ⟨_, hback⟩ := hrun.back_alternates hi
  exact ⟨hback, by rw [slotAfter_succ, ← hback, State.front]⟩

/-- The first INIT of a working block leaves it initialised with slot A back (R95). -/
theorem exec_init_of_fresh {r s : State} (hi : r.inited = false) (hf : r.faulted = false) (h : exec .init r = .next s) :
    s.inited = true ∧ s.back = .A := by
  rcases execInit_cases h with ⟨hf', _⟩ | ⟨_, hi', _⟩ | ⟨_, _, rfl⟩
  · exact absurd (hf.symm.trans hf') (by decide)
  · exact absurd (hi.symm.trans hi') (by decide)
  · exact ⟨rfl, rfl⟩

/-- Settles O44: INIT leaves slot A back, and from any initialised state the roles alternate along every run. -/
theorem strictAlternation : Obligations.StrictAlternation := by
  refine ⟨fun r s t k hi hf h hrun => ?_, fun s t k => CountedRun.roles_alternate, fun s t => step_exchanges_roles⟩
  obtain ⟨hsi, hsb⟩ := exec_init_of_fresh hi hf h
  rw [← hsb]
  exact hrun.roles_alternate hsi

end Sys2Proof.Machine

/-! The input mapper's commands: what SAMPLE does to the joypad and to `EXIT` (43_input.md R115, R118), and RDJOY (R119). -/

namespace Sys2Proof.Machine

variable {c : Config} {role : Role} {prev cur cur' : BitVec 16}

/-! ### The edges of one role -/

theorem anyWithRole_pressEdges_iff :
    anyWithRole c role (pressEdges prev cur) = true ↔
      ∃ r, r < 16 ∧ c.roleOf r = role ∧ cur.getLsbD r = true ∧ prev.getLsbD r = false := by
  simp only [anyWithRole_iff, pressEdges_getLsbD, Bool.and_eq_true, Bool.not_eq_true']

theorem anyWithRole_releaseEdges_iff :
    anyWithRole c role (releaseEdges prev cur) = true ↔
      ∃ r, r < 16 ∧ c.roleOf r = role ∧ cur.getLsbD r = false ∧ prev.getLsbD r = true := by
  simp only [anyWithRole_iff, releaseEdges_getLsbD, Bool.and_eq_true, Bool.not_eq_true', and_comm]

/-- A raw input with a press edge is held. -/
theorem no_press_of_not_held (h : anyWithRole c role cur = false) : anyWithRole c role (pressEdges prev cur) = false := by
  rw [Bool.eq_false_iff, Ne, anyWithRole_iff] at h
  rw [Bool.eq_false_iff, Ne, anyWithRole_pressEdges_iff]
  exact fun ⟨r, hr, hrole, hcur, _⟩ => h ⟨r, hr, hrole, hcur⟩

/-- The OR of a role reads the raw bits of that role alone. -/
theorem anyWithRole_congr {v v' : BitVec 16} (h : ∀ r, r < 16 → c.roleOf r = role → v'.getLsbD r = v.getLsbD r) :
    anyWithRole c role v' = anyWithRole c role v := by
  rw [Bool.eq_iff_iff, anyWithRole_iff, anyWithRole_iff]
  constructor
  · exact fun ⟨r, hr, hrole, hv⟩ => ⟨r, hr, hrole, (h r hr hrole).symm.trans hv⟩
  · exact fun ⟨r, hr, hrole, hv⟩ => ⟨r, hr, hrole, (h r hr hrole).trans hv⟩

/-! ### One button's joypad bit after a sample -/

section
variable {btn : Button} (hc : c.wf = true) (jp : BitVec 8)
include hc

theorem joypadAfter_of_press (hP : anyWithRole c (.button btn) (pressEdges prev cur) = true) :
    (joypadAfter c prev cur jp).getLsbD (c.joyBit.pos btn).val = false := by
  rw [joypadAfter_getLsbD hc, hP, Bool.not_true, Bool.and_false]

theorem joypadAfter_of_release (hH : anyWithRole c (.button btn) cur = false)
    (hR : anyWithRole c (.button btn) (releaseEdges prev cur) = true) :
    (joypadAfter c prev cur jp).getLsbD (c.joyBit.pos btn).val = true := by
  rw [joypadAfter_getLsbD hc, hH, hR, no_press_of_not_held hH, Bool.not_false, Bool.and_true, Bool.and_true, Bool.or_true]

theorem joypadAfter_keeps_bit (hP : anyWithRole c (.button btn) (pressEdges prev cur) = false)
    (hR : anyWithRole c (.button btn) cur = true ∨ anyWithRole c (.button btn) (releaseEdges prev cur) = false) :
    (joypadAfter c prev cur jp).getLsbD (c.joyBit.pos btn).val = jp.getLsbD (c.joyBit.pos btn).val := by
  rw [joypadAfter_getLsbD hc, hP, Bool.not_false, Bool.and_true]
  rcases hR with hH | hR
  · rw [hH, Bool.not_true, Bool.and_false, Bool.or_false]
  · rw [hR, Bool.false_and, Bool.or_false]

end

/-! ### What the joypad and `EXIT` depend on -/

/-- The two passes read the raw bits that have a button alone (43_input.md R118). -/
theorem joypadAfter_congr (h : ∀ r, r < 16 → (∃ btn, c.roleOf r = .button btn) → cur'.getLsbD r = cur.getLsbD r)
    (jp : BitVec 8) : joypadAfter c prev cur' jp = joypadAfter c prev cur jp := by
  have held (btn) : anyWithRole c (.button btn) cur' = anyWithRole c (.button btn) cur :=
    anyWithRole_congr fun r hr hrole => h r hr ⟨btn, hrole⟩
  have pressed (btn) :
      anyWithRole c (.button btn) (pressEdges prev cur') = anyWithRole c (.button btn) (pressEdges prev cur) :=
    anyWithRole_congr fun r hr hrole => by rw [pressEdges_getLsbD, pressEdges_getLsbD, h r hr ⟨btn, hrole⟩]
  have released (btn) :
      anyWithRole c (.button btn) (releaseEdges prev cur') = anyWithRole c (.button btn) (releaseEdges prev cur) :=
    anyWithRole_congr fun r hr hrole => by rw [releaseEdges_getLsbD, releaseEdges_getLsbD, h r hr ⟨btn, hrole⟩]
  simp only [joypadAfter, pressPass, releasePass, held, pressed, released]

theorem exitAfter_iff {exitFlag : Bool} :
    exitAfter c prev cur exitFlag = true ↔
      exitFlag = true ∨ ∃ e, e < 16 ∧ c.roleOf e = .exit ∧ cur.getLsbD e = true ∧ prev.getLsbD e = false := by
  rw [exitAfter, Bool.or_eq_true, anyWithRole_pressEdges_iff]

/-! ### The commands -/

/-- SAMPLE on a working block latches (R114). -/
theorem exec_sample_of_working {raw : BitVec 16} {s t : State} (hf : s.faulted = false)
    (h : exec (.sample raw) s = .next t) : t = s.latch raw := by
  rcases execSample_cases h with ⟨hf', _⟩ | ⟨_, ht⟩
  · exact absurd (hf.symm.trans hf') (by decide)
  · exact ht

/-- Settles O47: the three clauses are the press, the release and the untouched case of the two passes. -/
theorem sampleUpdatesEachButton : Obligations.SampleUpdatesEachButton := by
  intro raw s t hc hf h btn
  obtain rfl := exec_sample_of_working hf h
  rw [latch_joypad, ← anyWithRole_pressEdges_iff, ← anyWithRole_releaseEdges_iff, ← anyWithRole_iff]
  simp only [Bool.not_eq_true]
  exact ⟨joypadAfter_of_press hc _, joypadAfter_of_release hc _, joypadAfter_keeps_bit hc _⟩

/-- Settles O48: `EXIT` by its press edge, and the joypad from the raw bits with a button alone. -/
theorem sampleSetsExitOnPressEdge : Obligations.SampleSetsExitOnPressEdge := by
  intro raw s t hf h
  obtain rfl := exec_sample_of_working hf h
  refine ⟨exitAfter_iff, fun raw' u h' hsame => ?_⟩
  obtain rfl := exec_sample_of_working hf h'
  exact joypadAfter_congr hsame s.joypad

theorem exec_rdjoy (s : State) : exec .rdjoy s = .next (s.respond false (s.joypad.setWidth 32)) := rfl

/-- Settles O51: the answer is the joypad extended by zeros. -/
theorem rdjoyAnswersJoypad : Obligations.RdjoyAnswersJoypad := fun s =>
  ⟨_, exec_rdjoy s, setWidth_extract_low s.joypad (by decide), setWidth_extract_high s.joypad 8 24 (Nat.le_refl 8)⟩

end Sys2Proof.Machine

/-! The status word field by field (10_state.md R26), and RDSTAT (44_system.md R125). -/

namespace Sys2Proof

/-! ### Fields of placed values -/

/-- A placed value is read back at its own position. -/
theorem placed_extract_self {n pos : Nat} (v : BitVec n) (hfit : pos + n ≤ 32) : (placed v pos).extractLsb' pos n = v := by
  apply BitVec.eq_of_getLsbD_eq
  intro k hk
  rw [BitVec.getLsbD_extractLsb', placed_getLsbD, Nat.add_sub_cancel_left]
  simp only [hk, show pos + k < 32 by omega, Nat.le_add_right, decide_true, Bool.true_and]

/-- A field apart from a placed value's own bits reads nothing of it. -/
theorem placed_extract_apart {n pos start len : Nat} (v : BitVec n) (hapart : start + len ≤ pos ∨ pos + n ≤ start) :
    (placed v pos).extractLsb' start len = 0 := by
  apply BitVec.eq_of_getLsbD_eq
  intro k hk
  rw [BitVec.getLsbD_extractLsb', placed_getLsbD]
  rcases hapart with hbelow | habove
  · simp [show ¬ pos ≤ start + k by omega]
  · simp [BitVec.getLsbD_of_ge v (start + k - pos) (by omega)]

namespace Machine

/-! ### The status word -/

section

variable (s : State)

/-- A field of the status word is the OR of what its eight placed values have there. -/
theorem statusWord_extract (start len : Nat) :
    s.statusWord.extractLsb' start len =
      (placed s.lineNext 0).extractLsb' start len ||| (placed (BitVec.ofBool s.inited) 8).extractLsb' start len
        ||| (placed (BitVec.ofBool s.faulted) 9).extractLsb' start len ||| (placed s.fcause 10).extractLsb' start len
        ||| (placed s.back.bit 13).extractLsb' start len ||| (placed s.scan.bit 14).extractLsb' start len
        ||| (placed (BitVec.ofBool s.pend) 15).extractLsb' start len
        ||| (placed (BitVec.ofBool s.exitFlag) 16).extractLsb' start len := by
  simp only [State.statusWord, BitVec.extractLsb'_or]

theorem statusWord_lineNext : s.statusWord.extractLsb' 0 8 = s.lineNext := by
  rw [statusWord_extract, placed_extract_self s.lineNext (by decide)]
  simp [placed_extract_apart]

theorem statusWord_fcause : s.statusWord.extractLsb' 10 3 = s.fcause := by
  rw [statusWord_extract, placed_extract_self s.fcause (by decide)]
  simp [placed_extract_apart]

theorem statusWord_reserved : s.statusWord.extractLsb' 17 15 = 0 := by
  rw [statusWord_extract]
  simp [placed_extract_apart]

/-- The one-bit fields of the status word: every other placed value lies wholly below or above the bit asked for. -/
theorem statusWord_flags :
    s.statusWord.getLsbD 8 = s.inited ∧ s.statusWord.getLsbD 9 = s.faulted ∧
      s.statusWord.getLsbD 13 = (s.back == .B) ∧ s.statusWord.getLsbD 14 = (s.scan == .B) ∧
      s.statusWord.getLsbD 15 = s.pend ∧ s.statusWord.getLsbD 16 = s.exitFlag := by
  simp only [State.statusWord, BitVec.getLsbD_or, placed_getLsbD, slot_bit_getLsbD]
  simp

/-- RDSTAT answers the status word on a working and on a faulted block alike (R125). -/
theorem exec_rdstat : exec .rdstat s = .next (s.respond false s.statusWord) := rfl

end

/-- Settles O52: the answer is the status word, whose placed values do not overlap. -/
theorem rdstatAnswersStatusFields : Obligations.RdstatAnswersStatusFields := by
  intro s
  obtain ⟨hinited, hfaulted, hback, hscan, hpend, hexit⟩ := statusWord_flags s
  exact ⟨_, exec_rdstat s, statusWord_lineNext s, hinited, hfaulted, statusWord_fcause s, hback, hscan, hpend, hexit,
    statusWord_reserved s⟩

end Machine
end Sys2Proof

/-! The fault entry (60_exceptions.md R131) and the order of the fault conditions (R132). -/

namespace Sys2Proof.Machine

/-! ### A working block faults by the fault entry alone -/

/-- A command on a working block takes the fault entry with its own header, or leaves the block working (R135). -/
theorem exec_raisesFault_or_working {i : Instr} {s t : State} (hf : s.faulted = false) (h : exec i s = .next t) :
    (∃ cause, t = s.raiseFault cause i.header) ∨ t.faulted = false := by
  have hne : ¬ s.faulted = true := by simp [hf]
  cases i with
  | init =>
    rcases execInit_cases h with ⟨hf', _⟩ | ⟨_, _, rfl⟩ | ⟨_, _, rfl⟩
    · exact absurd hf' hne
    · exact .inl ⟨.reinit, rfl⟩
    · exact .inr hf
  | scanline =>
    rcases execScanline_cases h with
      ⟨hf', _⟩ | ⟨_, _, rfl⟩ | ⟨_, _, _, rfl⟩ | ⟨_, _, _, _, rfl⟩ | ⟨_, _, _, _, _, rfl⟩
    · exact absurd hf' hne
    · exact .inl ⟨.notInit, rfl⟩
    · exact .inl ⟨.lineRange, rfl⟩
    · exact .inl ⟨.lineOrder, rfl⟩
    · exact .inr hf
  | present =>
    rcases execPresent_cases h with
      ⟨_, _, rfl⟩ | ⟨_, _, rfl⟩ | ⟨_, hf', _⟩ | ⟨_, _, _, rfl⟩ | ⟨_, _, _, _, rfl⟩ | ⟨_, _, _, _, rfl⟩
    · exact .inr hf
    · exact .inr hf
    · exact absurd hf' hne
    · exact .inl ⟨.notInit, rfl⟩
    · exact .inl ⟨.presentEarly, rfl⟩
    · exact .inr hf
  | sample => exact .inr (by rw [exec_sample_of_working hf h]; exact hf)
  | resolve | rdjoy | rdstat | rdfault => injection h with h; subst h; exact .inr hf

/-- Settles O22: a working block that becomes faulted took the fault entry, which is the state the statement writes out. -/
theorem faultEntryChangesOnlyFaultRegisters : Obligations.FaultEntryChangesOnlyFaultRegisters := by
  refine ⟨fun i s t hf h ht => ?_, fun header s hf => illegalCommand_of_working hf header⟩
  rcases exec_raisesFault_or_working hf h with ⟨cause, rfl⟩ | hworking
  · exact ⟨cause, rfl⟩
  · exact absurd (hworking.symm.trans ht) (by decide)

/-! ### Which fault a working block raises: the checks of each command in the order of R132 -/

section

variable {s : State} (hf : s.faulted = false)

include hf

theorem exec_init_of_inited (hi : s.inited = true) : exec .init s = .next (s.raiseFault .reinit Instr.init.header) := by
  rw [exec, execInit, unlessFaulted_working _ hf, if_pos hi]

theorem exec_scanline_of_not_inited (line : Byte) (payload : List Word) (hi : s.inited = false) :
    exec (.scanline line payload) s = .next (s.raiseFault .notInit (Instr.scanline line payload).header) := by
  rw [exec, execScanline, unlessFaulted_working _ hf, if_pos (by simp [hi])]

theorem exec_scanline_of_out_of_range {line : Byte} (payload : List Word) (hi : s.inited = true)
    (hl : s.cfg.h ≤ line.toNat) :
    exec (.scanline line payload) s = .next (s.raiseFault .lineRange (Instr.scanline line payload).header) := by
  rw [exec, execScanline, unlessFaulted_working _ hf, if_neg (by simp [hi]), if_pos hl]

theorem exec_scanline_of_out_of_order {line : Byte} (payload : List Word) (hi : s.inited = true)
    (hl : line.toNat < s.cfg.h) (hne : line ≠ s.lineNext) :
    exec (.scanline line payload) s = .next (s.raiseFault .lineOrder (Instr.scanline line payload).header) := by
  rw [exec, execScanline, unlessFaulted_working _ hf, if_neg (by simp [hi]), if_neg (Nat.not_le_of_lt hl), if_pos hne]

theorem exec_present_of_not_inited (hp : s.pend = false) (hi : s.inited = false) :
    exec .present s = .next (s.raiseFault .notInit Instr.present.header) := by
  rw [exec, execPresent, if_neg (by simp [hp]), unlessFaulted_working _ hf, if_pos (by simp [hi])]

theorem exec_present_of_incomplete_frame (hp : s.pend = false) (hi : s.inited = true) (hl : s.lineNext.toNat ≠ s.cfg.h) :
    exec .present s = .next (s.raiseFault .presentEarly Instr.present.header) := by
  rw [exec, execPresent, if_neg (by simp [hp]), unlessFaulted_working _ hf, if_neg (by simp [hi]), if_pos hl]

/-- An illegal header faults before any condition of a command is looked at (30_encoding.md R67). -/
theorem step_of_illegal_header {header : Word} {why : Reject} {rest : List Word} (hw : s.cfg.wf = true)
    (hp : s.pend = false) (ht : s.turnOf = .block) (hd : decode s.cfg s.port = .illegal header why rest) :
    step s = .next ((s.dropTurn.withPort rest).raiseFault .illegalCmd header) := by
  rw [step_of_block hw ht, blockTurn_of_illegal (s := s.dropTurn) hp hd,
    illegalCommand_of_working (s := s.dropTurn.withPort rest) hf]

end

/-- Settles O23: each clause names the first check that fails, and its next state is the fault entry with that cause. -/
theorem faultPriority : Obligations.FaultPriority := by
  refine ⟨fun s hf hi => ?reinit, fun line payload s hf => ⟨fun hi => ?notInit, fun hi hl => ?range, fun hi hl hne => ?order⟩,
    fun s hf hp => ⟨fun hi => ?presentNotInit, fun hi hl => ?early⟩, fun s header why rest hw hp hf ht hd => ?illegal⟩
  case reinit => exact ⟨_, exec_init_of_inited hf hi, rfl, rfl⟩
  case notInit => exact ⟨_, exec_scanline_of_not_inited hf line payload hi, rfl, rfl⟩
  case range => exact ⟨_, exec_scanline_of_out_of_range hf payload hi hl, rfl, rfl⟩
  case order => exact ⟨_, exec_scanline_of_out_of_order hf payload hi hl hne, rfl, rfl⟩
  case presentNotInit => exact ⟨_, exec_present_of_not_inited hf hp hi, rfl, rfl⟩
  case early => exact ⟨_, exec_present_of_incomplete_frame hf hp hi hl, rfl, rfl⟩
  case illegal => exact ⟨_, step_of_illegal_header hf hw hp ht hd, rfl, rfl⟩

end Sys2Proof.Machine

/-! The decoder and the encoder agree (30_encoding.md R60 to R66), the raw row of a payload (R63), and FILL (R73). -/

namespace Sys2Proof.Machine

open Laws.Framing (opcodeOf)

/-! ### Every command is read back from its words -/

/-- The header of every command carries its opcode, and its words are as many as that opcode frames. -/
theorem framing (i : Instr) : Laws.Framing.Statement i := by
  cases i with
  | init => exact Laws.Framing.init
  | resolve idx => exact Laws.Framing.resolve idx
  | scanline line payload => exact Laws.Framing.scanline line payload
  | present => exact Laws.Framing.present
  | sample raw => exact Laws.Framing.sample raw
  | rdjoy => exact Laws.Framing.rdjoy
  | rdstat => exact Laws.Framing.rdstat
  | rdfault => exact Laws.Framing.rdfault

/-- Format R reads back the operand placed beside SAMPLE's opcode (R65). -/
theorem decodeHeader_sample (raw : BitVec 16) (payload : List Word) :
    decodeHeader (Instr.sample raw).header payload = .ok (.sample raw) := by
  have hmbz : (Instr.sample raw).header.extractLsb' 16 12 = 0 := by
    rw [Instr.header, BitVec.extractLsb'_or, setWidth_extract_high raw 16 12 (Nat.le_refl 16)]
    decide
  have hoperand : (Instr.sample raw).header.extractLsb' 0 16 = raw := by
    rw [Instr.header, BitVec.extractLsb'_or, setWidth_extract_low raw (by decide)]
    exact BitVec.zero_or
  rw [decodeHeader, (framing (.sample raw)).1]
  show decodeHalfOperand (Instr.sample raw).header .sample = .ok (.sample raw)
  rw [decodeHalfOperand, if_pos hmbz, hoperand]

theorem decodeHeader_header (i : Instr) : decodeHeader i.header i.payload = .ok i := by
  cases i with
  | resolve idx => exact decodeHeader_resolve idx []
  | scanline line payload => exact decodeHeader_scanline line payload
  | sample raw => exact decodeHeader_sample raw []
  | init | present | rdjoy | rdstat | rdfault => decide

/-- Settles O2: every header is read back, and the words behind it are framed by its opcode. -/
theorem decodeOfEncode : Obligations.DecodeOfEncode := fun c i rest hwf =>
  decode_encode_of_header rest ((framing i).2 c hwf) (decodeHeader_header i)

/-! ### What is read is the words of a command -/

/-- A word whose bits from `len` up to the `OPC` field are zero is its `OPC` with its operand beside it (R61 to R65). -/
theorem word_eq_opcode_or_operand {h : Word} {len : Nat} (hlen : len ≤ 28) (hmbz : h.extractLsb' len (28 - len) = 0) :
    h = placed (opcode h) 28 ||| (h.extractLsb' 0 len).setWidth 32 := by
  apply BitVec.eq_of_getLsbD_eq
  intro k hk
  rw [BitVec.getLsbD_or, placed_getLsbD, BitVec.getLsbD_setWidth, BitVec.getLsbD_extractLsb', opcode,
    BitVec.getLsbD_extractLsb', Nat.zero_add]
  by_cases hop : 28 ≤ k
  · simp [hk, hop, show k - 28 < 4 by omega, show ¬ k < len by omega]
  · by_cases hlow : k < len
    · simp [hk, hop, hlow]
    · have hbit := congrArg (BitVec.getLsbD · (k - len)) hmbz
      simp only [BitVec.getLsbD_extractLsb', show k - len < 28 - len by omega, show len + (k - len) = k by omega,
        decide_true, Bool.true_and] at hbit
      simp [hop, hlow, hbit]

section

variable {h : Word} {i : Instr}

/-- A header read in format Z is its `OPC` alone (R61). -/
theorem decodeZ_ok {j : Instr} (hd : decodeZ h j = .ok i) : i = j ∧ h = placed (opcode h) 28 := by
  unfold decodeZ at hd
  split at hd
  case isTrue hmbz =>
    injection hd with hd
    have hword := word_eq_opcode_or_operand (Nat.zero_le 28) hmbz
    rw [BitVec.eq_nil (h.extractLsb' 0 0)] at hword
    exact ⟨hd.symm, hword.trans BitVec.or_zero⟩
  case isFalse => cases hd

/-- A header read in format I or L is its `OPC` with an 8-bit operand beside it (R62, R63). -/
theorem decodeByteOperand_ok {f : Byte → Instr} (hd : decodeByteOperand h f = .ok i) :
    ∃ b : Byte, i = f b ∧ h = placed (opcode h) 28 ||| b.setWidth 32 := by
  unfold decodeByteOperand at hd
  split at hd
  case isTrue hmbz =>
    injection hd with hd
    exact ⟨_, hd.symm, word_eq_opcode_or_operand (by decide) hmbz⟩
  case isFalse => cases hd

/-- A header read in format R is its `OPC` with a 16-bit operand beside it (R65). -/
theorem decodeHalfOperand_ok {f : BitVec 16 → Instr} (hd : decodeHalfOperand h f = .ok i) :
    ∃ b : BitVec 16, i = f b ∧ h = placed (opcode h) 28 ||| b.setWidth 32 := by
  unfold decodeHalfOperand at hd
  split at hd
  case isTrue hmbz =>
    injection hd with hd
    exact ⟨_, hd.symm, word_eq_opcode_or_operand (by decide) hmbz⟩
  case isFalse => cases hd

theorem opcode_eq_of_toNat {n : Nat} (hop : (opcode h).toNat = n) : opcode h = BitVec.ofNat 4 n := by
  rw [← hop, BitVec.ofNat_toNat, BitVec.setWidth_eq]

/-- A header that decodes is the header of the command it decodes to. -/
theorem header_of_decodeHeader {payload : List Word} (hd : decodeHeader h payload = .ok i) : i.header = h := by
  unfold decodeHeader at hd
  split at hd
  case h_1 hop | h_4 hop | h_6 hop | h_7 hop | h_8 hop =>
    obtain ⟨rfl, hword⟩ := decodeZ_ok hd
    rw [hword, opcode_eq_of_toNat hop]
    decide
  case h_2 hop | h_3 hop =>
    obtain ⟨b, rfl, hword⟩ := decodeByteOperand_ok hd
    rw [hword, opcode_eq_of_toNat hop]
    rfl
  case h_5 hop =>
    obtain ⟨b, rfl, hword⟩ := decodeHalfOperand_ok hd
    rw [hword, opcode_eq_of_toNat hop]
    rfl
  case h_9 => cases hd

/-- SCANLINE takes the payload words framed with its header, and every other command takes none (R60). -/
theorem payload_of_decodeHeader {payload : List Word} (hd : decodeHeader h payload = .ok i) :
    i.payload = if opcode h = 0x3 then payload else [] := by
  have hop : opcode h = opcodeOf i := by rw [← header_of_decodeHeader hd, (framing i).1]
  unfold decodeHeader at hd
  split at hd
  case h_1 | h_4 | h_6 | h_7 | h_8 =>
    obtain ⟨rfl, _⟩ := decodeZ_ok hd
    rw [hop]
    rfl
  case h_2 | h_3 =>
    obtain ⟨b, rfl, _⟩ := decodeByteOperand_ok hd
    rw [hop]
    rfl
  case h_5 =>
    obtain ⟨b, rfl, _⟩ := decodeHalfOperand_ok hd
    rw [hop]
    rfl
  case h_9 => cases hd

end

/-- A command is well formed when its payload is what its header frames behind itself (R60). -/
theorem wf_of_payload_length {c : Config} {i : Instr} (hlen : i.payload.length = frameLength c i.header - 1) :
    i.wf c = true := by
  cases i with
  | scanline line payload =>
    rw [frameLength, (framing (.scanline line payload)).1] at hlen
    exact beq_iff_eq.2 (hlen.trans (Nat.add_sub_cancel_left 1 c.pw))
  | _ => rfl

/-- Settles O3: the header read is the command's own, and the words framed with it are its payload. -/
theorem encodeOfDecode : Obligations.EncodeOfDecode := by
  intro c ws i rest hd
  cases ws with
  | nil => cases hd
  | cons h t =>
    rw [decode] at hd
    split at hd
    case isTrue => cases hd
    case isFalse hlen =>
      split at hd
      case h_2 => cases hd
      case h_1 j hok =>
        injection hd with hj hrest
        subst hj hrest
        have hheader := header_of_decodeHeader hok
        have hpayload : j.payload = t.take (frameLength c h - 1) := by
          rw [payload_of_decodeHeader hok]
          split
          case isTrue => rfl
          case isFalse hop => rw [frameLength_of_other c hop, Nat.sub_self, List.take_zero]
        refine ⟨by rw [encode, hheader, hpayload, List.cons_append, List.take_append_drop], wf_of_payload_length ?_⟩
        rw [hpayload, hheader, List.length_take, Nat.min_eq_left (Nat.le_of_not_lt hlen)]

/-! ### The raw row of a payload -/

theorem wordContainers_getElem? (w : Word) {x : Nat} (hx : x < 4) : (wordContainers w)[x]? = some (byteOf w x) := by
  obtain rfl | rfl | rfl | rfl : x = 0 ∨ x = 1 ∨ x = 2 ∨ x = 3 := by omega
  all_goals rfl

/-- Container x of a payload is container x mod 4 of its word x div 4 (R63). -/
theorem containers_getElem? (payload : List Word) (x : Nat) :
    (payload.flatMap wordContainers)[x]? = (payload[x / 4]?).map (fun w => byteOf w (x % 4)) := by
  induction payload generalizing x with
  | nil => rfl
  | cons w payload ih =>
    rw [List.flatMap_cons]
    by_cases hx : x < 4
    · rw [List.getElem?_append_left (by exact hx), wordContainers_getElem? w hx, Nat.div_eq_of_lt hx, Nat.mod_eq_of_lt hx]
      rfl
    · rw [List.getElem?_append_right (by exact Nat.le_of_not_lt hx)]
      show (payload.flatMap wordContainers)[x - 4]? = _
      rw [ih, show x / 4 = (x - 4) / 4 + 1 by omega, show x % 4 = (x - 4) % 4 by omega, List.getElem?_cons_succ]

theorem rawRow_getElem? {n x : Nat} (payload : List Word) (hx : x < n) :
    (rawRow n payload)[x]? = (payload[x / 4]?).map (fun w => byteOf w (x % 4)) := by
  rw [rawRow, List.getElem?_take_of_lt hx, containers_getElem?]

/-- Settles O7: a payload of PW words holds N containers, each at the place R63 gives it. -/
theorem rawRowComesFromPayload : Obligations.RawRowComesFromPayload := fun c payload hlen =>
  ⟨rawRow_length (c := c) hlen, fun _ hx => rawRow_getElem? payload hx⟩

/-! ### FILL -/

/-- A payload word holds the four containers it is made of. -/
theorem wordContainers_payloadWord (p q r t : Byte) : wordContainers (payloadWord p q r t) = [p, q, r, t] := by
  simp only [wordContainers, byteOf, payloadWord, BitVec.extractLsb'_or]
  simp [placed_extract_self, placed_extract_apart]

theorem packRow_length (row : List Byte) : (packRow row).length = (row.length + 3) / 4 := by
  induction row using packRow.induct with
  | case5 p q r t rest ih =>
    simp only [packRow, List.length_cons, ih]
    omega
  | _ => simp [packRow]

/-- Packing a row and reading its containers back gives the row; the fill of a short last word is ignored (R63). -/
theorem rawRow_packRow (row : List Byte) : rawRow row.length (packRow row) = row := by
  induction row using packRow.induct with
  | case5 p q r t rest ih =>
    simpa [rawRow, packRow, wordContainers_payloadWord] using ih
  | _ => simp [rawRow, packRow, wordContainers_payloadWord]

theorem fillOf_wf (c : Config) (line container : Nat) : (fillOf c line container).wf c = true := by
  simp [fillOf, scanlineOf, Instr.wf, packRow_length, Config.pw]

/-- Settles O9: the words of FILL are those of a well-formed SCANLINE, whose packed row is read back. -/
theorem fillIsUniformScanline : Obligations.FillIsUniformScanline := by
  intro c line container rest _ _
  refine ⟨packRow (List.replicate c.n (BitVec.ofNat 8 container)), ?_, ?_⟩
  · have hwords : (ScriptLine.fill line container).words c = encode (fillOf c line container) := List.append_nil _
    rw [hwords, decodeOfEncode c _ rest (fillOf_wf c line container), fillOf, scanlineOf, List.map_replicate]
  · simpa using rawRow_packRow (List.replicate c.n (BitVec.ofNat 8 container))

/-- Settles O1: each of the eight words is decoded in its configuration. -/
theorem specWordsDecode : Obligations.SpecWordsDecode := by
  unfold Obligations.SpecWordsDecode
  decide

end Sys2Proof.Machine

/-! The step on a command, on an illegal header, with nothing to take, and on a reset (30_encoding.md R67, R75,
70_reset_and_hazards.md R150); that every step answers a next state. -/

namespace Sys2Proof.Machine

/-! ### The block's turn -/

theorem blockTurn_of_waiting {s : State} {why : Reject} (hp : s.pend = false) (hd : decode s.cfg s.port = .waiting why) :
    blockTurn s = .next s := by
  rw [blockTurn, hp, hd]
  rfl

/-- Settles O10: on the block's turn with `PEND = 0` the step is the meaning of the command read from the port. -/
theorem stepRunsDecodedCommand : Obligations.StepRunsDecodedCommand := by
  intro s i rest hw hp ht hd
  rw [step_of_block hw ht, blockTurn_of_command (s := s.dropTurn) hp hd]
  rfl

/-- Settles O11: the illegal header is refused or faults, with its framed words taken. -/
theorem stepAnswersIllegalHeader : Obligations.StepAnswersIllegalHeader := by
  intro s h why rest hw hp ht hd
  rw [step_of_block hw ht, blockTurn_of_illegal (s := s.dropTurn) hp hd, State.illegalCommand]
  rfl

/-- The decoder waits exactly where the port holds no whole command (R60, R75). -/
theorem decode_waiting_of_incomplete {c : Config} {ws : List Word}
    (hws : ws = [] ∨ ∃ h t, ws = h :: t ∧ opcode h = 0x3 ∧ t.length < c.pw) : ∃ why, decode c ws = .waiting why := by
  rcases hws with rfl | ⟨h, t, rfl, hop, hlen⟩
  · exact ⟨_, rfl⟩
  · exact ⟨_, by rw [decode, frameLength_of_scanline c hop, if_pos (by omega)]⟩

/-- Settles O12: with no whole command at the port the block's turn changes nothing. -/
theorem idleBlockKeepsItsState : Obligations.IdleBlockKeepsItsState := by
  intro s hw hp ht hws
  obtain ⟨why, hd⟩ := decode_waiting_of_incomplete hws
  rw [step_of_block hw ht, blockTurn_of_waiting (s := s.dropTurn) hp hd]
  rfl

/-! ### Every step answers -/

/-- In a well-formed configuration a turn of the block answers a next state. -/
theorem blockTurn_answers {s : State} (hw : s.cfg.wf = true) : ∃ t, blockTurn s = .next t := by
  unfold blockTurn
  split
  case isTrue => exact exec_answers hw .present
  case isFalse =>
    split
    case h_1 i rest _ => exact exec_answers (s := s.withPort rest) hw i
    case h_2 => exact ⟨_, rfl⟩
    case h_3 => exact ⟨_, rfl⟩

/-- Settles O15: the turns of the display and of reset always answer, and the block's does in a well-formed
configuration. -/
theorem everyStepAnswersNext : Obligations.EveryStepAnswersNext := by
  intro s hw
  match ht : s.turnOf with
  | .block => rw [step_of_block hw ht]; exact blockTurn_answers (s := s.dropTurn) hw
  | .display => exact ⟨_, step_of_display hw ht⟩
  | .reset => exact ⟨_, step_of_reset hw ht⟩
  | .resetInCommand => exact ⟨_, step_of_resetInCommand hw ht⟩

/-! ### Reset -/

/-- A reset inside a command leaves the words behind that command, as a reset leaves them (R150, R151). -/
theorem resetInCommand_of_command {s : State} {i : Instr} {rest : List Word} (hp : s.pend = false)
    (hd : decode s.cfg s.port = .command i rest) : s.resetInCommand = (s.withPort rest).resetInput := by
  rw [State.resetInCommand, hp, wordsBehindCommand, hd]
  rfl

/-- A step on which reset is due is the reset input, with some words left at the port; inside a command that the block
has taken, with the words behind it. -/
theorem step_of_resetDue {s : State} (hw : s.cfg.wf = true) (hr : s.resetDue = true) :
    ∃ ws, step s = .next (s.dropTurn.withPort ws).resetInput ∧
      ∀ i rest, s.turnOf = .resetInCommand → s.pend = false → decode s.cfg s.port = .command i rest → ws = rest := by
  rcases (resetDue_iff s).1 hr with ht | ht
  · exact ⟨s.port, step_of_reset hw ht, fun _ _ ht' => absurd (ht.symm.trans ht') (by decide)⟩
  · rw [step_of_resetInCommand hw ht]
    by_cases hcmd : s.pend = false ∧ ∃ i rest, decode s.cfg s.port = .command i rest
    · obtain ⟨hp, i, rest, hd⟩ := hcmd
      refine ⟨rest, by rw [resetInCommand_of_command (s := s.dropTurn) hp hd], fun i' rest' _ _ hd' => ?_⟩
      injection hd.symm.trans hd'
    · obtain ⟨ws, hws⟩ := resetInCommand_eq s.dropTurn
      exact ⟨ws, by rw [hws], fun i rest _ hp hd => absurd ⟨hp, i, rest, hd⟩ hcmd⟩

/-- Settles O13: every reset ends in the reset input, whose registers and empty views are those of R30. -/
theorem resetRestoresEveryRegister : Obligations.ResetRestoresEveryRegister := by
  intro s hw hr
  obtain ⟨ws, hstep, hport⟩ := step_of_resetDue hw hr
  exact ⟨_, hstep, rfl, rfl, rfl, rfl, rfl, rfl, rfl, rfl, rfl, rfl, rfl, rfl, rfl, rfl, rfl, fun _ => ⟨rfl, rfl⟩,
    fun i rest ht hp hd => by rw [hport i rest ht hp hd]; rfl⟩

/-- Settles O14: the three read commands on the reset state, whose status word is evaluated. -/
theorem resetStateReadsAsSpecified : Obligations.ResetStateReadsAsSpecified := by
  refine ⟨?_, rfl, rfl, rfl, rfl, rfl, fun _ => ⟨rfl, rfl⟩⟩
  have hword : State.reset.statusWord = 0x00004000 := by decide
  rw [exec_rdstat, hword]
  rfl

end Sys2Proof.Machine

/-! The invariant holds at reset and every step keeps it; the configuration and the palette are fixed (00_scope.md R4,
10_state.md R13), the flags are sticky (R18 to R22), and the joypad follows the held levels (43_input.md R120). -/

namespace Sys2Proof.Machine

/-! ### The invariant at reset -/

theorem anyWithRole_zero (c : Config) (role : Role) : anyWithRole c role 0 = false := by
  simp [anyWithRole]

theorem levelLaw_resetOf (c : Config) : LevelLaw (State.resetOf c) := by
  intro btn
  show (0xFF : BitVec 8).getLsbD (c.joyBit.pos btn).val = !anyWithRole c (.button btn) 0
  rw [anyWithRole_zero]
  generalize c.joyBit.pos btn = k
  revert k
  decide

theorem inv_resetOf {c : Config} (hw : c.wf = true) : Inv (State.resetOf c) where
  cfg_wf := hw
  palette_fixed := rfl
  store_wf := wf_nil c false
  views_agree := rfl
  line_le := Nat.zero_le _
  swap_gate := fun _ => rfl
  waiting_frame := fun h => nomatch h
  cause_code := ⟨⟨fun _ => rfl, fun _ => rfl⟩, by simp [State.resetOf]⟩
  no_command_recorded := fun _ => rfl
  before_init := fun _ => ⟨rfl, rfl, rfl⟩
  level_law := levelLaw_resetOf c

/-- Settles O16: DEFAULT is a well-formed configuration, and the invariant holds at the reset of each. -/
theorem invariantHoldsAtReset : Obligations.InvariantHoldsAtReset :=
  ⟨inv_resetOf (by decide), fun _ => inv_resetOf⟩

/-! ### The commands keep the invariant -/

theorem inv_refuseFaulted {s : State} (h : Inv s) : Inv s.refuseFaulted := inv_respond h true _

theorem inv_resetInput {s : State} (hw : s.cfg.wf = true) : Inv s.resetInput :=
  { inv_resetOf hw with }

theorem initialise_memD (s : State) :
    s.initialise.memD = Memory.copyRange (s.memW.outsideSlots s.cfg)
      (Memory.copyRange (s.memW.outsideSlots s.cfg) s.memD (s.cfg.bufBase .A) s.cfg.slotBytes)
      (s.cfg.bufBase .B) s.cfg.slotBytes := rfl

/-- The effect of INIT before any other: both views are empty and stay so (42_framesync.md R95). -/
theorem inv_initialise {s : State} (h : Inv s) (hi : s.inited = false) : Inv s.initialise := by
  obtain ⟨_, _, hW⟩ := h.before_init hi
  have hD : s.memD = [] := h.views_agree.trans hW
  have hW' : s.initialise.memW = [] := by rw [initialise_memW, hW]; rfl
  have hD' : s.initialise.memD = [] := by rw [initialise_memD, hW, hD]; rfl
  exact
    { h with
      store_wf := by rw [hW']; exact wf_nil _ _
      views_agree := hD'.trans hW'.symm
      line_le := Nat.zero_le _
      swap_gate := fun _ => rfl
      waiting_frame := fun hp => nomatch hp
      before_init := fun hi' => nomatch hi' }

/-- The line count does not wrap: a line of the frame is below 255 (R17, 00_scope.md R5 K1). -/
theorem putScanline_lineNext_toNat {s : State} {line : Byte} (payload : List Word) (hw : s.cfg.wf = true)
    (hl : line.toNat < s.cfg.h) : (s.putScanline line payload).lineNext.toNat = line.toNat + 1 := by
  obtain ⟨_, _, hh⟩ := Config.k1_of_wf hw
  rw [putScanline_lineNext, BitVec.toNat_add]
  exact Nat.mod_eq_of_lt (by simpa using by omega)

/-- The effect of a SCANLINE that passed its checks (41_compositor.md R85). -/
theorem inv_putScanline {s : State} {line : Byte} {payload : List Word} (h : Inv s) (hp : s.pend = false)
    (hi : s.inited = true) (hl : line.toNat < s.cfg.h) (hlen : payload.length = s.cfg.pw) :
    Inv (s.putScanline line payload) :=
  { h with
    store_wf := by
      refine wf_writeRun h.store_wf fun a hlo hhi => (Config.inSlots_iff _ _).2 ⟨s.back, ?_⟩
      rw [scanlineBytes_length s hlen] at hhi
      exact inSlot_of_inRow h.cfg_wf hl ⟨hlo, hhi⟩
    views_agree := by
      rw [putScanline_memD, putScanline_memW, h.views_agree, ← scanlineBytes_length s hlen]
      exact copyRange_writeRun_self ..
    line_le := by
      rw [putScanline_lineNext_toNat payload h.cfg_wf hl]
      exact hl
    waiting_frame := fun hp' => absurd (hp.symm.trans hp') (by decide)
    before_init := fun hi' => absurd (hi.symm.trans hi') (by decide) }

theorem inv_submit {s : State} (h : Inv s) (hf : s.faulted = false) (hi : s.inited = true)
    (hl : s.lineNext.toNat = s.cfg.h) : Inv s.submit :=
  { h with
    swap_gate := fun hp => nomatch hp
    waiting_frame := fun _ => ⟨hi, hf, hl⟩ }

theorem inv_complete {s : State} (h : Inv s) (hp : s.pend = true) (hs : s.scan = s.back) : Inv s.complete :=
  { h with
    line_le := Nat.zero_le _
    swap_gate := fun _ => complete_scan_eq_front hs
    waiting_frame := fun hp' => nomatch hp'
    before_init := fun hi => absurd ((h.waiting_frame hp).1.symm.trans hi) (by decide) }

/-- After a sample that starts from the level law a button's bit is 0 exactly when an input is held: its inputs held
before and now are those held throughout with those released, and with those pressed. -/
theorem levelLaw_latch {s : State} (hw : s.cfg.wf = true) (h : LevelLaw s) (raw : BitVec 16) : LevelLaw (s.latch raw) := by
  intro btn
  show (joypadAfter s.cfg s.rawCur raw s.joypad).getLsbD (s.cfg.joyBit.pos btn).val = !anyWithRole s.cfg (.button btn) raw
  have hprev : anyWithRole s.cfg (.button btn) s.rawCur =
      (anyWithRole s.cfg (.button btn) (s.rawCur &&& raw) || anyWithRole s.cfg (.button btn) (releaseEdges s.rawCur raw)) :=
    anyWithRole_union _ _ fun r _ => by
      rw [BitVec.getLsbD_and, releaseEdges_getLsbD, ← Bool.and_or_distrib_left, Bool.or_not_self, Bool.and_true]
  have hcur : anyWithRole s.cfg (.button btn) raw =
      (anyWithRole s.cfg (.button btn) (s.rawCur &&& raw) || anyWithRole s.cfg (.button btn) (pressEdges s.rawCur raw)) :=
    anyWithRole_union _ _ fun r _ => by
      rw [BitVec.getLsbD_and, pressEdges_getLsbD, Bool.and_comm, ← Bool.and_or_distrib_left, Bool.or_not_self, Bool.and_true]
  rw [joypadAfter_getLsbD hw, h btn, hprev, hcur]
  generalize anyWithRole s.cfg (.button btn) (s.rawCur &&& raw) = kept
  generalize anyWithRole s.cfg (.button btn) (releaseEdges s.rawCur raw) = released
  generalize anyWithRole s.cfg (.button btn) (pressEdges s.rawCur raw) = pressed
  revert kept released pressed
  decide

theorem inv_latch {s : State} (h : Inv s) (raw : BitVec 16) : Inv (s.latch raw) :=
  { h with level_law := levelLaw_latch h.cfg_wf h.level_law raw }

theorem inv_displayAccept {s : State} (h : Inv s) : Inv s.displayAccept := by
  by_cases hwait : s.waiting = true
  · have hp := ((waiting_iff s).1 hwait).1
    rw [displayAccept_of_waiting hwait]
    exact { h with swap_gate := fun hp' => absurd (hp.symm.trans hp') (by decide) }
  · rw [displayAccept_of_not_waiting hwait]
    exact h

theorem execPresent_keeps_inv {s t : State} (h : Inv s) (hx : execPresent s = .next t) : Inv t := by
  rcases execPresent_cases hx with
    ⟨hp, hs, rfl⟩ | ⟨_, _, rfl⟩ | ⟨_, _, rfl⟩ | ⟨hp, _, _, rfl⟩ | ⟨hp, _, _, _, rfl⟩ | ⟨_, hf, hi, hl, rfl⟩
  · exact inv_complete h hp hs
  · exact h
  · exact inv_refuseFaulted h
  · exact inv_raiseFault h hp _ _
  · exact inv_raiseFault h hp _ _
  · exact inv_submit h hf hi hl

/-- A well-formed command, accepted with `PEND = 0`, keeps the invariant. -/
theorem exec_keeps_inv {i : Instr} {s t : State} (h : Inv s) (hp : s.pend = false) (hwf : i.wf s.cfg = true)
    (hx : exec i s = .next t) : Inv t := by
  cases i with
  | init =>
    rcases execInit_cases hx with ⟨_, rfl⟩ | ⟨_, _, rfl⟩ | ⟨_, hi, rfl⟩
    · exact inv_refuseFaulted h
    · exact inv_raiseFault h hp _ _
    · exact inv_respond (inv_initialise h hi) _ _
  | scanline line payload =>
    rcases execScanline_cases hx with
      ⟨_, rfl⟩ | ⟨_, _, rfl⟩ | ⟨_, _, _, rfl⟩ | ⟨_, _, _, _, rfl⟩ | ⟨_, hi, hl, _, _, rfl⟩
    · exact inv_refuseFaulted h
    · exact inv_raiseFault h hp _ _
    · exact inv_raiseFault h hp _ _
    · exact inv_raiseFault h hp _ _
    · exact inv_putScanline h hp hi hl (beq_iff_eq.1 hwf)
  | present => exact execPresent_keeps_inv h hx
  | sample raw =>
    rcases execSample_cases hx with ⟨_, rfl⟩ | ⟨_, rfl⟩
    · exact inv_refuseFaulted h
    · exact inv_latch h raw
  | resolve | rdjoy | rdstat | rdfault => injection hx with hx; subst hx; exact inv_respond h _ _

/-! ### Every step keeps the invariant -/

theorem blockTurn_keeps_inv {s t : State} (h : Inv s) (hx : blockTurn s = .next t) : Inv t := by
  rcases blockTurn_cases hx with
    ⟨_, hx⟩ | ⟨hp, i, rest, hd, hx⟩ | ⟨hp, header, _, rest, _, rfl⟩ | ⟨_, _, _, rfl⟩
  · exact execPresent_keeps_inv h hx
  · exact exec_keeps_inv (s := s.withPort rest) (inv_withPort h rest) hp (encodeOfDecode _ _ _ _ hd).2 hx
  · rcases illegalCommand_cases (s.withPort rest) header with ⟨_, heq⟩ | ⟨_, heq⟩ <;> rw [heq]
    · exact inv_refuseFaulted (inv_withPort h rest)
    · exact inv_raiseFault (inv_withPort h rest) hp _ _
  · exact h

/-- Settles O17: a turn of the block, the display's accept step and reset each keep the invariant. -/
theorem stepKeepsInvariant : Obligations.StepKeepsInvariant := by
  intro s t h hx
  obtain ⟨hw, ⟨_, hx⟩ | ⟨_, rfl⟩ | ⟨_, ws, rfl⟩⟩ := step_cases hx
  · exact blockTurn_keeps_inv (inv_dropTurn h) hx
  · exact inv_displayAccept (inv_dropTurn h)
  · exact inv_resetInput (s := s.dropTurn.withPort ws) hw

/-- The invariant holds of every state that steps reach from the reset of a well-formed configuration. -/
theorem Reachable.inv {c : Config} {s : State} (hw : c.wf = true) (hr : Reachable c s) : Inv s := by
  induction hr with
  | reset => exact { inv_resetOf hw with }
  | step _ hx ih => exact stepKeepsInvariant _ _ ih hx

/-! ### The configuration and the palette -/

theorem exec_cfg_pal {i : Instr} {s t : State} (hx : exec i s = .next t) :
    t.cfg = s.cfg ∧ (s.pal = s.cfg.palette → t.pal = t.cfg.palette) := by
  obtain ⟨hc, hpal, _⟩ := exec_fixed hx
  exact ⟨hc, fun h => by rw [hpal, hc]; exact h⟩

theorem step_cfg_pal {s t : State} (hx : step s = .next t) :
    t.cfg = s.cfg ∧ (s.pal = s.cfg.palette → t.pal = t.cfg.palette) := by
  obtain ⟨_, ⟨_, hx⟩ | ⟨_, rfl⟩ | ⟨_, ws, rfl⟩⟩ := step_cases hx
  · rcases blockTurn_cases hx with ⟨_, hx⟩ | ⟨_, i, rest, _, hx⟩ | ⟨_, header, _, rest, _, rfl⟩ | ⟨_, _, _, rfl⟩
    · exact exec_cfg_pal (s := s.dropTurn) hx
    · exact exec_cfg_pal (s := s.dropTurn.withPort rest) hx
    · rw [illegalCommand_fixed]
      exact ⟨rfl, id⟩
    · exact ⟨rfl, id⟩
  · rw [displayAccept_cfg, displayAccept_pal]
    exact ⟨rfl, id⟩
  · exact ⟨rfl, fun _ => rfl⟩

/-- Settles O18: no step changes the configuration, and reset loads the palette from it. -/
theorem configurationAndPaletteNeverChange : Obligations.ConfigurationAndPaletteNeverChange := by
  refine ⟨fun s t => step_cfg_pal, fun c s hr => ?_⟩
  induction hr with
  | reset => exact ⟨rfl, rfl⟩
  | step _ hx ih =>
    obtain ⟨hc, hpal⟩ := step_cfg_pal hx
    obtain ⟨ihc, ihpal⟩ := ih
    have hc' := hc.trans ihc
    exact ⟨hc', hc' ▸ hpal (by rw [ihpal, ihc])⟩

/-- Settles O50: the level law is part of the invariant of every reachable state. -/
theorem joypadFollowsHeldLevels : Obligations.JoypadFollowsHeldLevels := by
  intro c s hw hr btn
  have hlaw := (hr.inv hw).level_law btn
  rw [(configurationAndPaletteNeverChange.2 c s hr).1] at hlaw
  rw [hlaw, Bool.not_eq_false', anyWithRole_iff]

/-! ### Sticky flags -/

/-- From `s` to `t` a set `EXIT` and the first fault are kept (10_state.md R19 to R22). -/
def KeepsExitAndFault (s t : State) : Prop :=
  (s.exitFlag = true → t.exitFlag = true) ∧
    (s.faulted = true → t.faulted = true ∧ t.fcause = s.fcause ∧ t.fcmd = s.fcmd)

/-- What leaves `EXIT` and the fault registers alone keeps them. -/
theorem keepsExitAndFault_of_eq {s t : State} (he : t.exitFlag = s.exitFlag) (hf : t.faulted = s.faulted)
    (hcause : t.fcause = s.fcause) (hcmd : t.fcmd = s.fcmd) : KeepsExitAndFault s t :=
  ⟨he.trans, fun h => ⟨hf.trans h, hcause, hcmd⟩⟩

/-- The fault entry of a working block loses no earlier fault. -/
theorem keepsExitAndFault_raiseFault {s : State} (hf : s.faulted = false) (cause : Cause) (header : Word) :
    KeepsExitAndFault s (s.raiseFault cause header) :=
  ⟨id, fun hf' => absurd (hf.symm.trans hf') (by decide)⟩

theorem exec_keepsExitAndFault {i : Instr} {s t : State} (hx : exec i s = .next t) : KeepsExitAndFault s t := by
  cases i with
  | init =>
    rcases execInit_cases hx with ⟨_, rfl⟩ | ⟨hf, _, rfl⟩ | ⟨_, _, rfl⟩
    · exact keepsExitAndFault_of_eq rfl rfl rfl rfl
    · exact keepsExitAndFault_raiseFault hf _ _
    · exact keepsExitAndFault_of_eq rfl rfl rfl rfl
  | scanline =>
    rcases execScanline_cases hx with
      ⟨_, rfl⟩ | ⟨hf, _, rfl⟩ | ⟨hf, _, _, rfl⟩ | ⟨hf, _, _, _, rfl⟩ | ⟨_, _, _, _, _, rfl⟩
    · exact keepsExitAndFault_of_eq rfl rfl rfl rfl
    · exact keepsExitAndFault_raiseFault hf _ _
    · exact keepsExitAndFault_raiseFault hf _ _
    · exact keepsExitAndFault_raiseFault hf _ _
    · exact keepsExitAndFault_of_eq rfl rfl rfl rfl
  | present =>
    rcases execPresent_cases hx with
      ⟨_, _, rfl⟩ | ⟨_, _, rfl⟩ | ⟨_, _, rfl⟩ | ⟨_, hf, _, rfl⟩ | ⟨_, hf, _, _, rfl⟩ | ⟨_, _, _, _, rfl⟩
    · exact keepsExitAndFault_of_eq rfl rfl rfl rfl
    · exact keepsExitAndFault_of_eq rfl rfl rfl rfl
    · exact keepsExitAndFault_of_eq rfl rfl rfl rfl
    · exact keepsExitAndFault_raiseFault hf _ _
    · exact keepsExitAndFault_raiseFault hf _ _
    · exact keepsExitAndFault_of_eq rfl rfl rfl rfl
  | sample raw =>
    rcases execSample_cases hx with ⟨_, rfl⟩ | ⟨_, rfl⟩
    · exact keepsExitAndFault_of_eq rfl rfl rfl rfl
    · exact ⟨fun he => exitAfter_iff.2 (.inl he), fun hf => ⟨hf, rfl, rfl⟩⟩
  | resolve | rdjoy | rdstat | rdfault =>
    injection hx with hx; subst hx; exact keepsExitAndFault_of_eq rfl rfl rfl rfl

theorem blockTurn_keepsExitAndFault {s t : State} (hx : blockTurn s = .next t) : KeepsExitAndFault s t := by
  rcases blockTurn_cases hx with ⟨_, hx⟩ | ⟨_, _, rest, _, hx⟩ | ⟨_, header, _, rest, _, rfl⟩ | ⟨_, _, _, rfl⟩
  · exact exec_keepsExitAndFault hx
  · exact exec_keepsExitAndFault (s := s.withPort rest) hx
  · rcases illegalCommand_cases (s.withPort rest) header with ⟨_, heq⟩ | ⟨hf, heq⟩ <;> rw [heq]
    · exact keepsExitAndFault_of_eq rfl rfl rfl rfl
    · exact keepsExitAndFault_raiseFault (s := s.withPort rest) hf _ _
  · exact keepsExitAndFault_of_eq rfl rfl rfl rfl

/-- Settles O20: `INITED` is never cleared but by reset, and the fault entry is taken by working blocks alone. -/
theorem flagsAreStickyUntilReset : Obligations.FlagsAreStickyUntilReset := by
  intro s t hr hx
  refine ⟨fun hi => step_keeps_inited hi hr hx, ?_⟩
  show KeepsExitAndFault s t
  obtain ⟨_, ⟨_, hx⟩ | ⟨_, rfl⟩ | ⟨hr', _⟩⟩ := step_cases hx
  · exact blockTurn_keepsExitAndFault (s := s.dropTurn) hx
  · exact keepsExitAndFault_of_eq (displayAccept_exitFlag _) (displayAccept_faulted _) (displayAccept_fcause _)
      (displayAccept_fcmd _)
  · exact absurd (hr.symm.trans hr') (by decide)

end Sys2Proof.Machine

/-! The displayed slot and the display's reads (20_memory.md R48 to R50, 42_framesync.md R104), and the geometry of the
rows (20_memory.md R42, R44, 41_compositor.md R91). -/

namespace Sys2Proof.Machine

/-! ### The displayed slot -/

/-- While no PRESENT is in flight the row that a SCANLINE writes is apart from the slot the display reads. -/
theorem Inv.not_inRow_of_inSlot_scan {s : State} (h : Inv s) (hp : s.pend = false) {line a : Nat} (hl : line < s.cfg.h)
    (ha : s.cfg.inSlot s.scan a = true) : ¬ InRow s.cfg s.back line a := by
  intro hrow
  have hback := inSlot_of_inRow h.cfg_wf hl hrow
  rw [h.swap_gate hp, Config.not_inSlot_other h.cfg_wf hback] at ha
  cases ha

theorem step_readsSame_displayed {s t : State} (h : Inv s) (hi : s.inited = true) (hr : s.resetDue = false)
    (hx : step s = .next t) {a : Nat} (ha : s.cfg.inSlot s.scan a = true) : ReadsSame s t a := by
  rcases step_frameStore_cases hi hr hx with hsame | ⟨line, payload, rest, _, _, hp, hl, rfl⟩
  · exact hsame a
  · exact readsSame_putScanline (s := s.dropTurn.withPort rest) payload (h.not_inRow_of_inSlot_scan hp hl ha)

/-- The display may read the byte it sees, inside the slot that `SCAN` names. -/
theorem displayMayRead_of_displayByte {s : State} {a : Nat} {b : Byte} (ha : s.cfg.inSlot s.scan a = true)
    (hb : s.displayByte a = some b) : s.displayMayRead a b = true := by
  simp [State.displayMayRead, ha, hb]

/-- What the display may read during a step that leaves a byte of its slot alone is what it might read before. -/
theorem displayMayReadDuring_of_readsSame {s t : State} {a : Nat} (ha : s.cfg.inSlot s.scan a = true)
    (hsame : ReadsSame s t a) (b : Byte) : displayMayReadDuring s t a b = s.displayMayRead a b := by
  rw [displayMayReadDuring, hsame.2, ha, Bool.true_and, Bool.or_eq_left_iff_imp, beq_iff_eq]
  exact displayMayRead_of_displayByte ha

/-- Settles O31: after INIT only a SCANLINE writes the frame store, and its row lies in the slot that is not displayed. -/
theorem displayedSlotIsNeverWritten : Obligations.DisplayedSlotIsNeverWritten := fun _ _ h hi hr hx _ ha =>
  have hsame := step_readsSame_displayed h hi hr hx ha
  ⟨hsame, displayMayReadDuring_of_readsSame ha hsame⟩

/-! ### The display's reads -/

/-- Where the invariant holds the two views read the same (R47). -/
theorem Inv.displayByte_eq {s : State} (h : Inv s) (a : Nat) : s.displayByte a = s.writerByte a := by
  rw [State.displayByte, h.views_agree, State.writerByte]

/-- After INIT every byte of a slot has a value, the same in both views. -/
theorem Inv.byte_value {s : State} (h : Inv s) (hi : s.inited = true) {slot : Slot} {a : Nat}
    (ha : s.cfg.inSlot slot a = true) : ∃ v, s.writerByte a = some v ∧ s.displayByte a = some v := by
  obtain ⟨v, hv⟩ := byteAt_isSome (m := s.memW) ((Config.inSlots_iff s.cfg a).2 ⟨slot, ha⟩)
  rw [← hi] at hv
  exact ⟨v, hv, (h.displayByte_eq a).trans hv⟩

/-- Settles O33: inside the displayed slot the byte is clean, so the display reads its one value. -/
theorem displayReadsTheByteWritten : Obligations.DisplayReadsTheByteWritten := by
  intro s a h hi
  constructor
  · intro ha
    obtain ⟨v, hw, hd⟩ := h.byte_value hi ha
    refine ⟨v, hw, fun b => ?_⟩
    simp only [State.displayMayRead, ha, hd, hw, Bool.true_and, Bool.or_eq_true, beq_iff_eq, Option.some.injEq]
    exact ⟨fun hb => hb.elim id Eq.symm, .inl⟩
  · intro ha b
    rw [State.displayMayRead, ha, Bool.false_and]

/-! ### Geometry -/

/-- Pixel x of a line lies in the line's surface row, x pixels into it (R42, R44). -/
theorem pixel_row_and_column {c : Config} {x : Nat} (hfit : c.baseOff % c.stride + x < c.stride) (line : Nat) :
    (c.baseOff + c.stride * line + x) / c.stride = c.baseOff / c.stride + line ∧
      (c.baseOff + c.stride * line + x) % c.stride = c.baseOff % c.stride + x := by
  have hsplit : c.baseOff + c.stride * line + x = (c.baseOff % c.stride + x) + c.stride * (c.baseOff / c.stride + line) := by
    have := Nat.mod_add_div c.baseOff c.stride
    rw [Nat.mul_add]
    omega
  rw [hsplit]
  exact ⟨by rw [Nat.add_mul_div_left _ _ (by omega), Nat.div_eq_of_lt hfit, Nat.zero_add],
    by rw [Nat.add_mul_mod_self_left, Nat.mod_eq_of_lt hfit]⟩

/-- The bytes of pixel x lie in its line's row (41_compositor.md R87). -/
theorem pixAddr_add_le_row {c : Config} (slot : Slot) (line : Nat) {x : Nat} (hx : x < c.n) :
    c.rowAddr slot line ≤ c.pixAddr slot line x ∧
      c.pixAddr slot line x + c.pixBytes ≤ c.rowAddr slot line + c.rowBytes := by
  have hbytes : c.pixBytes * (x + 1) ≤ c.pixBytes * c.n := Nat.mul_le_mul_left _ hx
  simp only [Config.rowAddr, Config.pixAddr, Config.rowBytes, Nat.mul_add, Nat.mul_zero, Nat.mul_one,
    Nat.mul_comm c.n] at hbytes ⊢
  omega

/-- Settles O29: the row of the line lies in its slot, and the pixel in its row, x pixels from the row's start. -/
theorem rowsStayInsideTheirSlot : Obligations.RowsStayInsideTheirSlot := by
  intro c slot line x hw hl hx
  obtain ⟨hcols, hrows⟩ := Config.k4_of_wf hw
  obtain ⟨hstride, _, _⟩ := Config.k3_of_wf hw
  obtain ⟨hdiv, hmod⟩ := pixel_row_and_column (c := c) (x := x) (by omega) line
  obtain ⟨hlo, hhi⟩ := pixAddr_add_le_row slot line hx
  have hrow := Config.rowInSlot_of_wf hw slot hl
  rw [Config.rowInSlot, Bool.and_eq_true, decide_eq_true_iff, decide_eq_true_iff] at hrow
  have hslot := Config.slot_le_of_wf hw slot
  have hend : c.pixAddr slot line x + c.pixBytes ≤ c.bufBase slot + c.slotBytes := by omega
  refine ⟨hdiv, hmod, by omega, by omega, by omega, hend, by omega, ?_⟩
  rw [Config.pixAddr, Nat.add_mul_mod_self_left]
  exact Config.aligned_of_wf hw slot

end Sys2Proof.Machine

/-! The pixel writes of SCANLINE (41_compositor.md R85 to R87, R90) and of INIT (42_framesync.md R95): what a loop of them
leaves, byte by byte, and that the two commands leave the same. -/

namespace Sys2Proof.Machine

theorem pixBytes_pos_of_wf {c : Config} (hw : c.wf = true) : 0 < c.pixBytes := by
  have := Config.pixBytes_of_wf hw
  omega

/-! ### Loops of pixel writes -/

/-- The pixels `xs` written one at a time, pixel x with the value `v x` at `n` bytes times x above `base`. -/
def pixelLoop (base n : Nat) (v : Nat → Word) (xs : List Nat) (s : State) : State :=
  xs.foldl (fun t x => t.memWrite (base + n * x) n (v x)) s

section

variable (base n : Nat) (v : Nat → Word) (xs : List Nat) (s : State)

/-- A loop of pixel writes touches `MEM_W` alone. -/
theorem pixelLoop_eq : pixelLoop base n v xs s = { s with memW := (pixelLoop base n v xs s).memW } := by
  induction xs generalizing s with
  | nil => rfl
  | cons x xs ih => exact ih (s.memWrite (base + n * x) n (v x))

theorem pixelLoop_displayByte (a : Nat) : (pixelLoop base n v xs s).displayByte a = s.displayByte a := by
  rw [pixelLoop_eq]
  rfl

variable {n}

/-- Address `a` is a byte of pixel x. -/
theorem pixel_range_iff (hn : 0 < n) (x a : Nat) :
    base + n * x ≤ a ∧ a < base + n * x + n ↔ base ≤ a ∧ (a - base) / n = x := by
  rw [Nat.div_eq_iff hn]
  have : x * n = n * x := Nat.mul_comm ..
  omega

/-- What a loop of pixel writes leaves: in the pixels it names their bytes, whatever the order and however often it
names them, and elsewhere the old bytes. -/
theorem pixelLoop_writerByte (hn : 0 < n) (a : Nat) :
    (pixelLoop base n v xs s).writerByte a =
      if base ≤ a ∧ (a - base) / n ∈ xs then some (byteOf (v ((a - base) / n)) ((a - base) % n))
      else s.writerByte a := by
  induction xs generalizing s with
  | nil => simp [pixelLoop]
  | cons x xs ih =>
    have hloop : pixelLoop base n v (x :: xs) s = pixelLoop base n v xs (s.memWrite (base + n * x) n (v x)) := rfl
    rw [hloop, ih, writerByte_memWrite]
    by_cases hin : base ≤ a ∧ (a - base) / n = x
    · obtain ⟨hlo, rfl⟩ := hin
      have hoff : a - (base + n * ((a - base) / n)) = (a - base) % n := by
        rw [← Nat.sub_sub, Nat.mod_eq_sub]
      rw [if_pos ((pixel_range_iff base hn _ a).2 ⟨hlo, rfl⟩), hoff, ite_self, if_pos ⟨hlo, List.mem_cons_self⟩]
    · rw [if_neg (mt (pixel_range_iff base hn x a).1 hin)]
      have hmem : base ≤ a ∧ (a - base) / n ∈ x :: xs ↔ base ≤ a ∧ (a - base) / n ∈ xs := by
        rw [List.mem_cons]
        tauto
      simp only [hmem]

end

/-! ### SCANLINE -/

theorem scanlinePixelLoop_eq (line : Nat) (payload : List Word) (xs : List Nat) (s : State) :
    scanlinePixelLoop line payload xs s =
      pixelLoop (s.cfg.rowAddr s.back line) s.cfg.pixBytes (fun x => resolve s.pal (payloadContainer payload x)) xs s := by
  have haddr (x : Nat) :
      s.cfg.pixAddr s.back line x = s.cfg.rowAddr s.back line + s.cfg.pixBytes * x := by
    simp only [Config.rowAddr, Config.pixAddr, Nat.add_zero, Nat.mul_add, Nat.add_assoc]
  simp only [scanlinePixelLoop, pixelLoop, haddr]

/-- Byte `j` of the row that a well-formed SCANLINE writes is a byte of the palette entry of its pixel's container
(R86, R87). -/
theorem scanlineBytes_getElem? (s : State) {payload : List Word} {j : Nat} (hlen : payload.length = s.cfg.pw)
    (hj : j < s.cfg.rowBytes) :
    (s.scanlineBytes payload)[j]? =
      some (byteOf (resolve s.pal (payloadContainer payload (j / s.cfg.pixBytes))) (j % s.cfg.pixBytes)) := by
  have hn : 0 < s.cfg.pixBytes := Nat.pos_of_ne_zero fun h0 => by simp [Config.rowBytes, h0] at hj
  have hx : j / s.cfg.pixBytes < s.cfg.n := (Nat.div_lt_iff_lt_mul hn).2 hj
  have hword : j / s.cfg.pixBytes / 4 < payload.length := by
    rw [hlen, Config.pw]
    omega
  have hpixel := rowPixels_getElem? s.cfg.pixBytes (expand s.pal (rawRow s.cfg.n payload)) (j / s.cfg.pixBytes)
    (j % s.cfg.pixBytes) (Nat.mod_lt _ hn)
  rw [Nat.div_add_mod, expand, List.getElem?_map, rawRow_getElem? payload hx, List.getElem?_eq_getElem hword] at hpixel
  rw [State.scanlineBytes, expand, hpixel, payloadContainer, List.getD_eq_getElem?_getD, List.getElem?_eq_getElem hword]
  rfl

/-- What a SCANLINE that takes effect leaves in both views (R85, R90). -/
theorem putScanline_bytes (s : State) (line : Byte) {payload : List Word} (hlen : payload.length = s.cfg.pw) {a : Nat}
    (ha : InRow s.cfg s.back line.toNat a) :
    (s.putScanline line payload).writerByte a =
        some (byteOf (resolve s.pal (payloadContainer payload ((a - s.cfg.rowAddr s.back line.toNat) / s.cfg.pixBytes)))
          ((a - s.cfg.rowAddr s.back line.toNat) % s.cfg.pixBytes)) ∧
      (s.putScanline line payload).displayByte a = (s.putScanline line payload).writerByte a := by
  obtain ⟨hlo, hhi⟩ := ha
  constructor
  · rw [writerByte_putScanline, scanlineBytes_length s hlen, if_pos ⟨hlo, hhi⟩, scanlineBytes_getElem? s hlen (by omega)]
  · rw [displayByte_putScanline, if_pos ⟨hlo, hhi⟩]

/-- A SCANLINE of the next line takes effect in a well-formed configuration (R85). -/
theorem exec_scanline_of_next {s : State} {line : Byte} (payload : List Word) (hw : s.cfg.wf = true)
    (hf : s.faulted = false) (hi : s.inited = true) (hline : line = s.lineNext) (hl : line.toNat < s.cfg.h) :
    exec (.scanline line payload) s = .next (s.putScanline line payload) := by
  rw [exec, execScanline, unlessFaulted_working _ hf, if_neg (by simp [hi]), if_neg (Nat.not_le_of_lt hl),
    if_neg (not_not.2 hline), if_pos (Config.rowInSlot_of_wf hw s.back hl)]

/-- The colour index of a container of a payload word is two bits of that word (R63, R64). -/
theorem colourIndex_byteOf (w : Word) (j : Nat) : colourIndex (byteOf w j) = w.extractLsb' (8 * j) 2 := by
  apply BitVec.eq_of_getLsbD_eq
  intro k hk
  simp only [colourIndex, byteOf, BitVec.getLsbD_extractLsb', Nat.zero_add, hk, show k < 8 by omega, decide_true,
    Bool.true_and]

/-- Settles O27: the byte asked for is byte k of pixel x of the row, which SCANLINE writes and flushes. -/
theorem scanlineWritesExpandedRow : Obligations.ScanlineWritesExpandedRow := by
  intro line payload s hw hf hi hline hl hlen
  refine ⟨_, exec_scanline_of_next payload hw hf hi hline hl, putScanline_lineNext_toNat payload hw hl, rfl,
    fun x k hx hk w hpw => ?_⟩
  obtain ⟨hlo, hhi⟩ := pixAddr_add_le_row (c := s.cfg) s.back line.toNat hx
  have haddr : s.cfg.pixAddr s.back line.toNat x + k - s.cfg.rowAddr s.back line.toNat = s.cfg.pixBytes * x + k := by
    simp only [Config.rowAddr, Config.pixAddr, Nat.mul_add]
    omega
  have hdiv : (s.cfg.pixBytes * x + k) / s.cfg.pixBytes = x := by
    rw [Nat.mul_add_div (by omega), Nat.div_eq_of_lt hk, Nat.add_zero]
  have hmod : (s.cfg.pixBytes * x + k) % s.cfg.pixBytes = k := by rw [Nat.mul_add_mod, Nat.mod_eq_of_lt hk]
  have hcontainer : payloadContainer payload x = byteOf w (x % 4) := by
    rw [payloadContainer, List.getD_eq_getElem?_getD, hpw]
    rfl
  obtain ⟨hwriter, hdisplay⟩ := putScanline_bytes s line hlen (a := s.cfg.pixAddr s.back line.toNat x + k)
    ⟨by omega, by omega⟩
  rw [haddr, hdiv, hmod, hcontainer, resolve, colourIndex_byteOf] at hwriter
  exact ⟨hwriter, hdisplay.trans hwriter⟩

section

variable {s : State} {line : Nat} {payload : List Word} {xs : List Nat} {a : Nat}

/-- The bytes of the pixels in any order are the bytes of the row. -/
theorem row_pixels_iff (hn : 0 < s.cfg.pixBytes) (hperm : xs.Perm (List.range s.cfg.n)) :
    (s.cfg.rowAddr s.back line ≤ a ∧ (a - s.cfg.rowAddr s.back line) / s.cfg.pixBytes ∈ xs) ↔
      InRow s.cfg s.back line a := by
  rw [hperm.mem_iff, List.mem_range, Nat.div_lt_iff_lt_mul hn, InRow, Config.rowBytes]
  omega

/-- The flush of the pseudocode makes the bytes of the row visible and no other (20_memory.md R46). -/
theorem scanlineByPixels_displayByte :
    (scanlineByPixels line payload xs s).displayByte a =
      if s.cfg.rowAddr s.back line ≤ a ∧ a < s.cfg.rowAddr s.back line + s.cfg.rowBytes
      then (scanlineByPixels line payload xs s).writerByte a else s.displayByte a := by
  rw [scanlineByPixels, displayByte_flush, writerByte_flush, scanlinePixelLoop_eq, pixelLoop_displayByte]
  rfl

/-- What the pixel loop and its flush leave in the row, in both views. -/
theorem scanlineByPixels_bytes (hn : 0 < s.cfg.pixBytes) (hperm : xs.Perm (List.range s.cfg.n))
    (ha : InRow s.cfg s.back line a) :
    (scanlineByPixels line payload xs s).writerByte a =
        some (byteOf (resolve s.pal (payloadContainer payload ((a - s.cfg.rowAddr s.back line) / s.cfg.pixBytes)))
          ((a - s.cfg.rowAddr s.back line) % s.cfg.pixBytes)) ∧
      (scanlineByPixels line payload xs s).displayByte a = (scanlineByPixels line payload xs s).writerByte a := by
  constructor
  · rw [scanlineByPixels, writerByte_flush, scanlinePixelLoop_eq, pixelLoop_writerByte _ _ _ _ hn,
      if_pos ((row_pixels_iff hn hperm).2 ha)]
  · obtain ⟨hlo, hhi⟩ := ha
    rw [scanlineByPixels_displayByte, if_pos ⟨hlo, hhi⟩]

/-- The pixel loop and its flush leave every byte outside the row alone. -/
theorem readsSame_scanlineByPixels (hn : 0 < s.cfg.pixBytes) (hperm : xs.Perm (List.range s.cfg.n))
    (ha : ¬ InRow s.cfg s.back line a) : ReadsSame s (scanlineByPixels line payload xs s) a := by
  constructor
  · rw [scanlineByPixels, writerByte_flush, scanlinePixelLoop_eq, pixelLoop_writerByte _ _ _ _ hn,
      if_neg (mt (row_pixels_iff hn hperm).1 ha)]
  · unfold InRow at ha
    rw [scanlineByPixels_displayByte, if_neg ha]

end

/-- Settles O30: the loop and the command leave the same bytes in the row, and neither touches any other. -/
theorem scanlineAgreesWithPixelLoop : Obligations.ScanlineAgreesWithPixelLoop := by
  intro line payload s t xs hw hf hi hline hl hlen hperm hx a
  have hn := pixBytes_pos_of_wf hw
  obtain rfl : s.putScanline line payload = t := by
    simpa only [exec_scanline_of_next payload hw hf hi hline hl, Host.Outcome.next.injEq] using hx
  by_cases ha : InRow s.cfg s.back line.toNat a
  · obtain ⟨hwriter, hdisplay⟩ := putScanline_bytes s line hlen ha
    obtain ⟨hloopW, hloopD⟩ := scanlineByPixels_bytes (payload := payload) hn hperm ha
    have hsame := hwriter.trans hloopW.symm
    exact ⟨hsame, by rw [hdisplay, hloopD, hsame]⟩
  · obtain ⟨hwriter, hdisplay⟩ := readsSame_putScanline (s := s) payload ha
    obtain ⟨hloopW, hloopD⟩ := readsSame_scanlineByPixels (payload := payload) hn hperm ha
    exact ⟨hwriter.trans hloopW.symm, hdisplay.trans hloopD.symm⟩

/-! ### INIT -/

/-- The first INIT of a working block takes effect (42_framesync.md R95). -/
theorem exec_init_of_not_inited {s : State} (hf : s.faulted = false) (hi : s.inited = false) :
    exec .init s = .next (s.initialise.respond false 0) := by
  rw [exec, execInit, unlessFaulted_working _ hf, if_neg (by simp [hi])]

/-- INIT changes no byte outside the slots. -/
theorem readsSame_initialise {s : State} {a : Nat} (ha : s.cfg.inSlots a = false) : ReadsSame s s.initialise a := by
  rw [ReadsSame, writerByte_initialise, displayByte_initialise, ha]
  exact ⟨rfl, rfl⟩

/-- Byte k of pixel p of a slot: the address is in the slot, k bytes into a pixel (20_memory.md R43). -/
theorem pixel_inSlot {c : Config} (slot : Slot) {p k : Nat} (hp : p < c.slotPix) (hk : k < c.pixBytes) :
    c.inSlot slot (c.bufBase slot + c.pixBytes * p + k) = true ∧
      (c.bufBase slot + c.pixBytes * p + k - c.bufBase slot) % c.pixBytes = k := by
  constructor
  · have hbytes : c.pixBytes * (p + 1) ≤ c.pixBytes * c.slotPix := Nat.mul_le_mul_left _ hp
    rw [Config.inSlot_iff, Config.slotBytes]
    rw [Nat.mul_add, Nat.mul_one] at hbytes
    omega
  · rw [Nat.add_assoc, Nat.add_sub_cancel_left, Nat.mul_add_mod, Nat.mod_eq_of_lt hk]

/-- Settles O34: the next state is the effect of INIT, whose bytes in the slots are the background. -/
theorem initEstablishesInitialState : Obligations.InitEstablishesInitialState := by
  intro s hf hi
  refine ⟨_, exec_init_of_not_inited hf hi, rfl, fun a => initialise_background, fun a => readsSame_initialise,
    fun hw slot p k hp hk => ?_⟩
  obtain ⟨hin, hmod⟩ := pixel_inSlot slot hp hk
  rw [displayByte_respond, (initialise_background ((Config.inSlots_iff _ _).2 ⟨slot, hin⟩)).2,
    backgroundByte_inSlot hw hin, hmod, byteOf]

theorem initPixelLoop_eq (slot : Slot) (ps : List Nat) (s : State) :
    initPixelLoop slot ps s = pixelLoop (s.cfg.bufBase slot) s.cfg.pixBytes (fun _ => s.cfg.bg) ps s := rfl

theorem initPixelLoop_cfg (slot : Slot) (ps : List Nat) (s : State) : (initPixelLoop slot ps s).cfg = s.cfg := by
  rw [initPixelLoop_eq, pixelLoop_eq]

/-- The loop over all pixels of a slot leaves the background in every byte of it, and every other byte alone. -/
theorem initPixelLoop_writerByte {s : State} (hw : s.cfg.wf = true) (slot : Slot) (a : Nat) :
    (initPixelLoop slot (List.range s.cfg.slotPix) s).writerByte a =
      if s.cfg.inSlot slot a = true then backgroundByte s.cfg a else s.writerByte a := by
  have hn := pixBytes_pos_of_wf hw
  have hin : (s.cfg.bufBase slot ≤ a ∧ (a - s.cfg.bufBase slot) / s.cfg.pixBytes ∈ List.range s.cfg.slotPix) ↔
      s.cfg.inSlot slot a = true := by
    rw [List.mem_range, Nat.div_lt_iff_lt_mul hn, Config.inSlot_iff, Config.slotBytes, Nat.mul_comm s.cfg.slotPix]
    omega
  rw [initPixelLoop_eq, pixelLoop_writerByte _ _ _ _ hn, if_congr hin rfl rfl]
  split
  case isTrue ha => rw [backgroundByte_inSlot hw ha]
  case isFalse => rfl

theorem initPixelLoop_displayByte (slot : Slot) (ps : List Nat) (s : State) (a : Nat) :
    (initPixelLoop slot ps s).displayByte a = s.displayByte a := by
  rw [initPixelLoop_eq, pixelLoop_displayByte]

/-- An address gets the same in slot B and in slot A exactly when it gets it in the slots. -/
theorem ite_inSlots (c : Config) (a : Nat) (x y : Option Byte) :
    (if c.inSlot .B a = true then x else if c.inSlot .A a = true then x else y) =
      if c.inSlots a = true then x else y := by
  unfold Config.inSlots
  cases c.inSlot .A a <;> cases c.inSlot .B a <;> rfl

/-- What the pixel loops over both slots leave. -/
theorem initPixelLoops_writerByte {s : State} (hw : s.cfg.wf = true) (a : Nat) :
    (initPixelLoop .B (List.range s.cfg.slotPix) (initPixelLoop .A (List.range s.cfg.slotPix) s)).writerByte a =
      if s.cfg.inSlots a = true then backgroundByte s.cfg a else s.writerByte a := by
  have hB := initPixelLoop_writerByte (s := initPixelLoop .A (List.range s.cfg.slotPix) s)
    (by rw [initPixelLoop_cfg]; exact hw) .B a
  rw [initPixelLoop_cfg, initPixelLoop_writerByte hw .A a] at hB
  rw [hB, ite_inSlots]

/-- The two flushes of the pseudocode make the bytes of the slots visible and no other (20_memory.md R46). -/
theorem initByPixels_displayByte (s : State) (a : Nat) :
    (initByPixels s).displayByte a =
      if s.cfg.inSlots a = true then (initByPixels s).writerByte a else s.displayByte a := by
  rw [initByPixels, displayByte_flush, displayByte_flush, initPixelLoop_displayByte, initPixelLoop_displayByte]
  simp only [← Config.inSlot_iff, writerByte_flush, ite_inSlots]

/-- Settles O35: the loops and INIT leave the background in the slots in both views, and neither touches another byte. -/
theorem initAgreesWithPixelLoop : Obligations.InitAgreesWithPixelLoop := by
  intro s t hw hf hi hx a
  obtain rfl : s.initialise.respond false 0 = t := by
    simpa only [exec_init_of_not_inited hf hi, Host.Outcome.next.injEq] using hx
  have hloopW : (initByPixels s).writerByte a = if s.cfg.inSlots a = true then backgroundByte s.cfg a else s.writerByte a :=
    initPixelLoops_writerByte hw a
  rw [ReadsSame, initByPixels_displayByte, hloopW, writerByte_respond, displayByte_respond, writerByte_initialise,
    displayByte_initialise]
  refine ⟨rfl, ?_⟩
  split <;> rfl

end Sys2Proof.Machine

/-! The responses of the commands (30_encoding.md R68), the refusals of a faulted block (60_exceptions.md R133), the
protocol table (42_framesync.md R105) and the read commands (44_system.md R126, R127). -/

namespace Sys2Proof.Machine

/-! ### One response per command -/

/-- From `s` to `t` command `i` answers once, as R68 says: an error with the code of the first fault, and (0, 0) where the
command has no data. -/
def AnswersOnce (i : Instr) (s t : State) : Prop :=
  ∃ r, t.responses = r :: s.responses ∧ (r.err = true → r.data = t.fcause.setWidth 32) ∧
    (r.err = false → i = .init ∨ i = .present ∨ (∃ line payload, i = .scanline line payload) → r.data = 0)

section

variable {i : Instr} {s t : State}

theorem answersOnce_refuseFaulted : AnswersOnce i s s.refuseFaulted :=
  ⟨_, rfl, fun _ => rfl, fun h => nomatch h⟩

theorem answersOnce_raiseFault (cause : Cause) (header : Word) : AnswersOnce i s (s.raiseFault cause header) :=
  ⟨_, rfl, fun _ => rfl, fun h => nomatch h⟩

theorem answersOnce_of_zero (h : t.responses = ⟨false, 0⟩ :: s.responses) : AnswersOnce i s t :=
  ⟨_, h, fun h' => (nomatch h'), fun _ _ => rfl⟩

/-- A command that is none of INIT, PRESENT and SCANLINE may answer any data. -/
theorem answersOnce_of_data {data : Word} (h : t.responses = ⟨false, data⟩ :: s.responses) (hinit : i ≠ .init)
    (hpresent : i ≠ .present) (hscanline : ∀ line payload, i ≠ .scanline line payload) : AnswersOnce i s t :=
  ⟨_, h, fun h' => (nomatch h'), fun _ hi => by
    rcases hi with hi | hi | ⟨line, payload, hi⟩
    exacts [absurd hi hinit, absurd hi hpresent, absurd hi (hscanline line payload)]⟩

end

/-- Settles O21: the refusal, the fault entry and the completion of a command each answer once, and a PRESENT that is
submitted or held has not been answered yet. -/
theorem oneResponsePerCommand : Obligations.OneResponsePerCommand := by
  intro i s t hx
  show _ ∨ AnswersOnce i s t
  cases i with
  | init =>
    rcases execInit_cases hx with ⟨_, rfl⟩ | ⟨_, _, rfl⟩ | ⟨_, _, rfl⟩
    · exact .inr answersOnce_refuseFaulted
    · exact .inr (answersOnce_raiseFault _ _)
    · exact .inr (answersOnce_of_zero rfl)
  | scanline =>
    rcases execScanline_cases hx with
      ⟨_, rfl⟩ | ⟨_, _, rfl⟩ | ⟨_, _, _, rfl⟩ | ⟨_, _, _, _, rfl⟩ | ⟨_, _, _, _, _, rfl⟩
    · exact .inr answersOnce_refuseFaulted
    · exact .inr (answersOnce_raiseFault _ _)
    · exact .inr (answersOnce_raiseFault _ _)
    · exact .inr (answersOnce_raiseFault _ _)
    · exact .inr (answersOnce_of_zero rfl)
  | present =>
    rcases execPresent_cases hx with
      ⟨_, _, rfl⟩ | ⟨hp, _, rfl⟩ | ⟨_, _, rfl⟩ | ⟨_, _, _, rfl⟩ | ⟨_, _, _, _, rfl⟩ | ⟨_, _, _, _, rfl⟩
    · exact .inr (answersOnce_of_zero rfl)
    · exact .inl ⟨rfl, hp, rfl⟩
    · exact .inr answersOnce_refuseFaulted
    · exact .inr (answersOnce_raiseFault _ _)
    · exact .inr (answersOnce_raiseFault _ _)
    · exact .inl ⟨rfl, rfl, rfl⟩
  | sample =>
    rcases execSample_cases hx with ⟨_, rfl⟩ | ⟨_, rfl⟩
    · exact .inr answersOnce_refuseFaulted
    · exact .inr (answersOnce_of_data rfl (by simp) (by simp) (by simp))
  | resolve | rdjoy | rdstat | rdfault =>
    injection hx with hx
    subst hx
    exact .inr (answersOnce_of_data rfl (by simp) (by simp) (by simp))

/-! ### A faulted block -/

theorem exec_rdfault (s : State) : exec .rdfault s = .next (s.respond false s.fcmd) := rfl

/-- Everything a command can do on a faulted block while no PRESENT is in flight: four are refused, four are answered. -/
theorem exec_of_faulted {i : Instr} {s t : State} (hf : s.faulted = true) (hp : s.pend = false)
    (hx : exec i s = .next t) :
    ((i = .init ∨ i = .present ∨ (∃ line payload, i = .scanline line payload) ∨ (∃ raw, i = .sample raw)) ∧
      t = s.refuseFaulted) ∨
    (∃ data, ((∃ idx, i = .resolve idx ∧ data = resolve s.pal idx) ∨ (i = .rdjoy ∧ data = s.joypad.setWidth 32) ∨
      (i = .rdstat ∧ data = s.statusWord) ∨ (i = .rdfault ∧ data = s.fcmd)) ∧ t = s.respond false data) := by
  have refused {run : Result} (h : unlessFaulted s run = .next t) : t = s.refuseFaulted := by
    rw [unlessFaulted_faulted run hf] at h
    injection h with h
    exact h.symm
  cases i with
  | init => exact .inl ⟨.inl rfl, refused hx⟩
  | scanline line payload => exact .inl ⟨.inr (.inr (.inl ⟨line, payload, rfl⟩)), refused hx⟩
  | present =>
    rw [exec, execPresent, if_neg (by simp [hp])] at hx
    exact .inl ⟨.inr (.inl rfl), refused hx⟩
  | sample raw => exact .inl ⟨.inr (.inr (.inr ⟨raw, rfl⟩)), refused hx⟩
  | resolve idx => injection hx with hx; exact .inr ⟨_, .inl ⟨idx, rfl, rfl⟩, hx.symm⟩
  | rdjoy => injection hx with hx; exact .inr ⟨_, .inr (.inl ⟨rfl, rfl⟩), hx.symm⟩
  | rdstat => injection hx with hx; exact .inr ⟨_, .inr (.inr (.inl ⟨rfl, rfl⟩)), hx.symm⟩
  | rdfault => injection hx with hx; exact .inr ⟨_, .inr (.inr (.inr ⟨rfl, rfl⟩)), hx.symm⟩

/-- Settles O24: the block's turn takes a command, an illegal header or nothing, and a faulted block refuses the illegal
header and four of the commands. -/
theorem faultedBlockRefuses : Obligations.FaultedBlockRefuses := by
  intro s t hf hp ht hx
  rw [step_of_block (step_cases hx).1 ht] at hx
  rcases blockTurn_cases hx with ⟨hp', _⟩ | ⟨_, i, rest, hd, hx⟩ | ⟨_, header, why, rest, hd, rfl⟩ | ⟨_, why, hd, rfl⟩
  · exact absurd (hp.symm.trans hp') (by decide)
  · rcases exec_of_faulted (s := s.dropTurn.withPort rest) hf hp hx with ⟨hi, rfl⟩ | ⟨data, hi, rfl⟩
    · exact .inl ⟨i, rest, hd, hi, rfl⟩
    · exact .inr (.inr (.inl ⟨i, rest, data, hd, hi, rfl⟩))
  · refine .inr (.inl ⟨header, why, rest, hd, ?_⟩)
    rw [State.illegalCommand, if_pos (by exact hf)]
    rfl
  · exact .inr (.inr (.inr ⟨why, hd, rfl⟩))

/-- Settles O53: a working block that becomes faulted has taken the fault entry with the command's own header. -/
theorem rdfaultAnswersFirstFaultingHeader : Obligations.RdfaultAnswersFirstFaultingHeader := by
  refine ⟨exec_rdfault, fun i s t hf hx ht => ?_⟩
  rcases exec_raisesFault_or_working hf hx with ⟨cause, rfl⟩ | hworking
  · exact exec_rdfault _
  · exact absurd (hworking.symm.trans ht) (by decide)

/-- Settles O54: RDSTAT answers the status word, whose flag bits are the registers that drive the outputs. -/
theorem outputsAreTheRegisters : Obligations.OutputsAreTheRegisters := by
  intro s t hx
  obtain rfl : s.respond false s.statusWord = t := by simpa only [exec_rdstat, Host.Outcome.next.injEq] using hx
  obtain ⟨_, hfaulted, hback, hscan, hpend, hexit⟩ := statusWord_flags s
  refine ⟨?_, _, rfl, hexit, hfaulted, hback, hscan, hpend⟩
  rw [State.outputs]
  cases s.back <;> rfl

/-! ### The protocol table -/

section

variable {s t : State}

theorem position_of_faulted (hf : s.faulted = true) : s.position = .faulted := by rw [State.position, if_pos hf]

theorem position_of_pend (hf : s.faulted = false) (hp : s.pend = true) : s.position = .presentWaiting := by
  simp [State.position, hf, hp]

theorem position_of_not_inited (hf : s.faulted = false) (hp : s.pend = false) (hi : s.inited = false) :
    s.position = .uninitialised := by
  simp [State.position, hf, hp, hi]

theorem position_of_inited (hf : s.faulted = false) (hp : s.pend = false) (hi : s.inited = true) :
    s.position = if s.lineNext.toNat = s.cfg.h then .frameComplete else .inFrame s.lineNext.toNat := by
  simp [State.position, hf, hp, hi]

/-- The position is a function of the configuration and of four registers (10_state.md R12). -/
theorem position_congr (hc : t.cfg = s.cfg) (hf : t.faulted = s.faulted) (hp : t.pend = s.pend)
    (hi : t.inited = s.inited) (hl : t.lineNext = s.lineNext) : t.position = s.position := by
  simp only [State.position, hc, hf, hp, hi, hl]

end

/-- PRESENT of a complete frame is submitted (42_framesync.md R98). -/
theorem exec_present_of_complete_frame {s : State} (hf : s.faulted = false) (hp : s.pend = false) (hi : s.inited = true)
    (hl : s.lineNext.toNat = s.cfg.h) : exec .present s = .next s.submit := by
  rw [exec, execPresent, if_neg (by simp [hp]), unlessFaulted_working _ hf, if_neg (by simp [hi]), if_neg (not_not.2 hl)]

/-- Command `i` at state `s` does what its row of the protocol table says: a working block raises the row's fault, or the
command leads to the row's position and raises none. -/
def FollowsTable (i : Instr) (s : State) : Prop :=
  (∃ cause, protocolTable s.cfg s.position i = (.faulted, some cause) ∧ s.faulted = false ∧
    exec i s = .next (s.raiseFault cause i.header)) ∨
  (∃ t, exec i s = .next t ∧ protocolTable s.cfg s.position i = (t.position, none) ∧ t.faulted = s.faulted ∧
    t.fcause = s.fcause)

/-- At X every command leaves the position and the fault cause (R105). -/
theorem followsTable_of_faulted {s : State} (hw : s.cfg.wf = true) (hf : s.faulted = true) (i : Instr) :
    FollowsTable i s := by
  obtain ⟨t, hx⟩ := exec_answers hw i
  obtain ⟨htf, hcause, _⟩ := (exec_keepsExitAndFault hx).2 hf
  refine .inr ⟨t, hx, ?_, htf.trans hf.symm, hcause⟩
  rw [position_of_faulted hf, position_of_faulted htf]
  cases i <;> rfl

/-- A command that is none of INIT, SCANLINE and PRESENT leaves every position (R105). -/
theorem protocolTable_of_other (c : Config) (p : Position) {i : Instr} (hinit : i ≠ .init) (hpresent : i ≠ .present)
    (hscanline : ∀ line payload, i ≠ .scanline line payload) : protocolTable c p i = (p, none) := by
  cases i with
  | init => exact absurd rfl hinit
  | present => exact absurd rfl hpresent
  | scanline line payload => exact absurd rfl (hscanline line payload)
  | resolve | sample | rdjoy | rdstat | rdfault => cases p <;> rfl

section

variable {s : State} (hw : s.cfg.wf = true) (hf : s.faulted = false) (hp : s.pend = false)

include hw hf hp

theorem followsTable_init : FollowsTable .init s := by
  by_cases hi : s.inited = true
  · refine .inl ⟨.reinit, ?_, hf, exec_init_of_inited hf hi⟩
    rw [position_of_inited hf hp hi]
    split <;> rfl
  · rw [Bool.not_eq_true] at hi
    refine .inr ⟨_, exec_init_of_not_inited hf hi, ?_, rfl, rfl⟩
    obtain ⟨_, hh, _⟩ := Config.k1_of_wf hw
    rw [position_of_not_inited hf hp hi, position_of_inited (s := s.initialise.respond false 0) hf rfl rfl,
      if_neg (by exact Nat.ne_of_lt hh)]
    rfl

theorem followsTable_scanline (hle : s.lineNext.toNat ≤ s.cfg.h) (line : Byte) (payload : List Word) :
    FollowsTable (.scanline line payload) s := by
  by_cases hi : s.inited = true
  · by_cases hl : s.cfg.h ≤ line.toNat
    · refine .inl ⟨.lineRange, ?_, hf, exec_scanline_of_out_of_range hf payload hi hl⟩
      rw [position_of_inited hf hp hi]
      split
      · simp only [protocolTable, if_pos hl]
      · simp only [protocolTable, if_pos hl, if_neg (show ¬ line.toNat = s.lineNext.toNat by omega)]
    · by_cases hne : line = s.lineNext
      · -- the one row that depends on the next position: the last line of the frame leads to C
        have hlt : s.lineNext.toNat < s.cfg.h := hne ▸ Nat.lt_of_not_le hl
        refine .inr ⟨_, exec_scanline_of_next payload hw hf hi hne (by omega), ?_, rfl, rfl⟩
        have hsucc : (s.putScanline line payload).lineNext.toNat = s.lineNext.toNat + 1 :=
          hne ▸ putScanline_lineNext_toNat payload hw (Nat.lt_of_not_le hl)
        rw [position_of_inited hf hp hi, if_neg (Nat.ne_of_lt hlt),
          position_of_inited (s := s.putScanline line payload) hf hp hi, hsucc]
        simp only [protocolTable, hne, if_true]
        exact apply_ite (fun p => (p, none)) _ _ _ |>.symm
      · refine .inl ⟨.lineOrder, ?_, hf, exec_scanline_of_out_of_order hf payload hi (Nat.lt_of_not_le hl) hne⟩
        rw [position_of_inited hf hp hi]
        split
        · simp only [protocolTable, if_neg hl]
        · simp only [protocolTable, if_neg hl, if_neg (mt BitVec.eq_of_toNat_eq hne)]
  · rw [Bool.not_eq_true] at hi
    refine .inl ⟨.notInit, ?_, hf, exec_scanline_of_not_inited hf line payload hi⟩
    rw [position_of_not_inited hf hp hi]
    rfl

omit hw in
theorem followsTable_present : FollowsTable .present s := by
  by_cases hi : s.inited = true
  · by_cases hl : s.lineNext.toNat = s.cfg.h
    · refine .inr ⟨_, exec_present_of_complete_frame hf hp hi hl, ?_, rfl, rfl⟩
      rw [position_of_inited hf hp hi, if_pos hl, position_of_pend (s := s.submit) hf rfl]
      rfl
    · refine .inl ⟨.presentEarly, ?_, hf, exec_present_of_incomplete_frame hf hp hi hl⟩
      rw [position_of_inited hf hp hi, if_neg hl]
      rfl
  · rw [Bool.not_eq_true] at hi
    refine .inl ⟨.notInit, ?_, hf, exec_present_of_not_inited hf hp hi⟩
    rw [position_of_not_inited hf hp hi]
    rfl

omit hw hp in
/-- SAMPLE and the read commands leave the registers that the position depends on. -/
theorem followsTable_of_other {i : Instr} {t : State} (hx : exec i s = .next t) (hinit : i ≠ .init)
    (hpresent : i ≠ .present) (hscanline : ∀ line payload, i ≠ .scanline line payload) : FollowsTable i s := by
  have hkeeps : t.position = s.position ∧ t.faulted = s.faulted ∧ t.fcause = s.fcause := by
    cases i with
    | init => exact absurd rfl hinit
    | present => exact absurd rfl hpresent
    | scanline line payload => exact absurd rfl (hscanline line payload)
    | sample raw =>
      rw [exec_sample_of_working hf hx]
      exact ⟨position_congr rfl rfl rfl rfl rfl, rfl, rfl⟩
    | resolve | rdjoy | rdstat | rdfault =>
      injection hx with hx
      subst hx
      exact ⟨position_congr rfl rfl rfl rfl rfl, rfl, rfl⟩
  obtain ⟨hpos, htf, hcause⟩ := hkeeps
  exact .inr ⟨t, hx, by rw [protocolTable_of_other _ _ hinit hpresent hscanline, hpos], htf, hcause⟩

end

/-- From every position but W every command follows the protocol table. -/
theorem Inv.followsTable {s : State} (h : Inv s) (hpos : s.position ≠ .presentWaiting) (i : Instr) : FollowsTable i s := by
  have hw := h.cfg_wf
  cases hf : s.faulted with
  | true => exact followsTable_of_faulted hw hf i
  | false =>
    have hp : s.pend = false := Bool.eq_false_iff.2 fun hp => hpos (position_of_pend hf hp)
    obtain ⟨t, hx⟩ := exec_answers hw i
    cases i with
    | init => exact followsTable_init hw hf hp
    | scanline line payload => exact followsTable_scanline hw hf hp h.line_le line payload
    | present => exact followsTable_present hf hp
    | resolve | sample | rdjoy | rdstat | rdfault => exact followsTable_of_other hf hx (by simp) (by simp) (by simp)

/-- Settles O25: a row that raises a fault is the fault entry of a working block, any other row raises none. -/
theorem positionsFollowProtocolTable : Obligations.PositionsFollowProtocolTable := by
  intro i s h _ hpos
  rcases h.followsTable hpos i with ⟨cause, hrow, hf, hx⟩ | ⟨t, hx, hrow, hfaulted, hcause⟩ <;> rw [hrow]
  · exact ⟨_, hx, position_of_faulted rfl, hf, rfl, rfl⟩
  · exact ⟨t, hx, rfl, hfaulted, hcause⟩

end Sys2Proof.Machine

/-! PRESENT from submit to completion (42_framesync.md R98 to R102), its hang without the display (R99,
93_implementation_defined.md V10), and what changes `BACK` (10_state.md R14). -/

namespace Sys2Proof.Machine

/-! ### Submit -/

/-- Settles O36: the frame is complete, so PRESENT is submitted; between commands every byte is clean. -/
theorem presentSubmitsCompleteFrame : Obligations.PresentSubmitsCompleteFrame := by
  intro s hp hf hi hl
  refine ⟨exec_present_of_complete_frame hf hp hi hl, fun h a _ => ?_⟩
  rw [State.clean, h.displayByte_eq, beq_self_eq_true]

/-! ### Waiting -/

theorem step_block_of_waiting {s : State} (hw : s.cfg.wf = true) (hp : s.pend = true) (hs : s.scan ≠ s.back)
    (ht : s.turnOf = .block) : step s = .next s.dropTurn := by
  rw [step_of_block hw ht, blockTurn_of_pend (s := s.dropTurn) hp]
  exact exec_present_of_not_accepted (s := s.dropTurn) hp hs

/-- Settles O37: the block's turn holds and the display's is its accept step. -/
theorem waitingPresentChangesOnlyScan : Obligations.WaitingPresentChangesOnlyScan := fun s hw hp hs =>
  ⟨step_block_of_waiting hw hp hs, fun ht => (displayAcceptStep s hw ht).1 hp hs⟩

theorem run_succ {s t : State} (hx : step s = .next t) (n : Nat) :
    Host.Core.run Sys2Proof.core (n + 1) s = Host.Core.run Sys2Proof.core n t := by
  have hx' : Sys2Proof.core.step s = .next t := hx
  simp only [Host.Core.run, hx']

theorem turnOf_of_cons {s : State} {turn : Turn} {more : List Turn} (h : s.sched = turn :: more) : s.turnOf = turn := by
  rw [State.turnOf, h]

/-- With no schedule the turn is the display's when PRESENT waits for a fair display, and else the block's (R99). -/
theorem turnOf_of_nil {s : State} (h : s.sched = []) :
    s.turnOf = if s.waiting && s.displayFair then .display else .block := by
  rw [State.turnOf, h]

theorem dropTurn_of_nil {s : State} (h : s.sched = []) : s.dropTurn = s := by
  rw [State.dropTurn, h, List.tail_nil, ← h]

/-- Settles O40: with no schedule and an unfair display every step is the block's held turn. -/
theorem presentHangsWithoutTheDisplay : Obligations.PresentHangsWithoutTheDisplay := by
  intro s n hw hp hs hsched hfair
  have hstep : step s = .next s := by
    have ht : s.turnOf = .block := by rw [turnOf_of_nil hsched, hfair, Bool.and_false]; rfl
    rw [step_block_of_waiting hw hp hs ht, dropTurn_of_nil hsched]
  induction n with
  | zero => rfl
  | succ n ih => rw [run_succ hstep, ih]

/-! ### Accept and complete -/

/-- The state after the display's accept step, its turn used up (R101). -/
def State.accepted (s : State) : State := { s.dropTurn with scan := s.back }

theorem step_accepts {s : State} (hw : s.cfg.wf = true) (hp : s.pend = true) (hs : s.scan ≠ s.back)
    (ht : s.turnOf = .display) : step s = .next s.accepted :=
  (displayAcceptStep s hw ht).1 hp hs

/-- A PRESENT that waits completes in the display's turn and the block's turn after it (R99, R100). -/
theorem run_accept_complete {s : State} (hw : s.cfg.wf = true) (hp : s.pend = true) (hs : s.scan = s.back.other)
    (ht : s.turnOf = .display) (ht' : s.accepted.turnOf = .block) :
    Host.Core.run Sys2Proof.core 2 s = .next s.accepted.dropTurn.complete := by
  have hcomplete : s.accepted.completesPresent = true := (completesPresent_iff s.accepted).2 ⟨ht', hp, rfl⟩
  rw [run_succ (step_accepts hw hp (hs ▸ other_ne s.back) ht), run_succ (step_of_completesPresent (s := s.accepted) hw hcomplete)]
  rfl

/-- Settles O42: each held turn only uses up the schedule, then the display accepts and PRESENT completes. -/
theorem presentCompletesAfterAnyWait : Obligations.PresentCompletesAfterAnyWait := by
  intro s n more hw hp hs hsched
  induction n generalizing s with
  | zero =>
    replace hsched : s.sched = .display :: .block :: more := hsched
    have ht' : s.accepted.turnOf = .block := turnOf_of_cons (s := s.accepted) (congrArg List.tail hsched)
    rw [run_accept_complete hw hp hs (turnOf_of_cons hsched) ht']
    simp only [State.accepted, State.dropTurn, State.complete, State.respond, hsched, List.tail_cons]
  | succ n ih =>
    rw [run_succ (step_block_of_waiting hw hp (hs ▸ other_ne s.back) (turnOf_of_cons hsched))]
    exact ih s.dropTurn hw hp hs (congrArg List.tail hsched)

/-! ### The one-step form -/

/-- The step that takes PRESENT from the port with a complete frame submits it (R98). -/
theorem step_submits {s : State} {rest : List Word} (hw : s.cfg.wf = true) (hp : s.pend = false) (hf : s.faulted = false)
    (hi : s.inited = true) (hl : s.lineNext.toNat = s.cfg.h) (ht : s.turnOf = .block)
    (hport : s.port = encode .present ++ rest) : step s = .next (s.dropTurn.withPort rest).submit := by
  have hd := decodeOfEncode s.cfg .present rest rfl
  rw [← hport] at hd
  rw [stepRunsDecodedCommand s .present rest hw hp ht hd]
  exact exec_present_of_complete_frame (s := s.dropTurn.withPort rest) hf hp hi hl

/-- Settles O41: the block submits, the display, which reads the front slot and is fair, accepts, the block completes. -/
theorem presentThreeStepsReachOneStepForm : Obligations.PresentThreeStepsReachOneStepForm := by
  intro s rest hw hp hf hi hl hs hsched hfair hport
  have hne : s.scan ≠ s.back := hs ▸ other_ne s.back
  have ht : s.turnOf = .block := by simp [turnOf_of_nil hsched, State.waiting, hp]
  rw [run_succ (step_submits hw hp hf hi hl ht hport), dropTurn_of_nil hsched]
  have htd : (s.withPort rest).submit.turnOf = .display := by
    simp [turnOf_of_nil (s := (s.withPort rest).submit) hsched, State.waiting, hne, hfair]
  have htb : (s.withPort rest).submit.accepted.turnOf = .block := by
    rw [turnOf_of_nil (s := (s.withPort rest).submit.accepted) (congrArg List.tail hsched)]
    simp [State.waiting, State.accepted]
  rw [run_accept_complete (s := (s.withPort rest).submit) hw rfl hs htd htb]
  simp only [State.presentAtOnce, State.complete, State.accepted, State.dropTurn, State.submit, State.withPort,
    State.respond, hsched, hp, List.tail_nil]

/-! ### What changes `BACK` -/

/-- Settles O43: of the turns only the block's and reset write `BACK`, and of the commands only INIT and the PRESENT that
completes. -/
theorem backChangesOnlyBySwapInitOrReset : Obligations.BackChangesOnlyBySwapInitOrReset := by
  intro s t hx hne
  obtain ⟨_, ⟨ht, hx⟩ | ⟨_, rfl⟩ | ⟨hr, ws, rfl⟩⟩ := step_cases hx
  · rcases blockTurn_cases hx with ⟨_, hx⟩ | ⟨hp, i, rest, hd, hx⟩ | ⟨_, header, _, rest, _, rfl⟩ | ⟨_, _, _, rfl⟩
    · rcases exec_swapRegisters_cases hx with ⟨hb, _⟩ | ⟨hi, _⟩ | ⟨_, _, hb, _⟩ | ⟨_, hp, hs, hb, _⟩
      · exact absurd hb hne
      · cases hi
      · exact absurd hb hne
      · exact .inl ⟨(completesPresent_iff s).2 ⟨ht, hp, hs⟩, hb⟩
    · rcases exec_swapRegisters_cases hx with ⟨hb, _⟩ | ⟨rfl, hi, hb, _⟩ | ⟨_, _, hb, _⟩ | ⟨_, hp', _⟩
      · exact absurd hb hne
      · exact .inr ⟨hb, .inr ⟨ht, hp, hi, rest, hd⟩⟩
      · exact absurd hb hne
      · exact absurd (hp.symm.trans hp') (by decide)
    · rw [illegalCommand_fixed] at hne
      exact absurd rfl hne
    · exact absurd rfl hne
  · exact absurd (displayAccept_back s.dropTurn) hne
  · exact .inr ⟨rfl, .inl hr⟩

end Sys2Proof.Machine

/-! SAMPLE's registers and response (43_input.md R114), and a SAMPLE of unchanged levels (R120). -/

namespace Sys2Proof.Machine

/-- SAMPLE on a working block latches, whatever its operand (R114). -/
theorem exec_sample_latches {s : State} (hf : s.faulted = false) (raw : BitVec 16) :
    exec (.sample raw) s = .next (s.latch raw) := by
  rw [exec, execSample, unlessFaulted_working _ hf]

/-- Settles O46: the next state is the latch, and the response holds the two edge sets. -/
theorem sampleLatchesAndAnswers : Obligations.SampleLatchesAndAnswers := fun raw _ hf =>
  ⟨_, _, exec_sample_latches hf raw, rfl, edgeWord_low .., edgeWord_high ..⟩

theorem pressEdges_self (v : BitVec 16) : pressEdges v v = 0 := BitVec.and_not_self v

theorem releaseEdges_self (v : BitVec 16) : releaseEdges v v = 0 := BitVec.and_not_self v

/-- Without an edge neither pass changes the joypad. -/
theorem joypadAfter_self (c : Config) (v : BitVec 16) (jp : BitVec 8) : joypadAfter c v v jp = jp := by
  simp only [joypadAfter, pressEdges_self, releaseEdges_self, pressPass, releasePass, anyWithRole_zero, Bool.false_and,
    Bool.false_eq_true, if_false, List.foldl_fixed]

theorem exitAfter_self (c : Config) (v : BitVec 16) (exitFlag : Bool) : exitAfter c v v exitFlag = exitFlag := by
  rw [exitAfter, pressEdges_self, anyWithRole_zero, Bool.or_false]

/-- Settles O49: with no edge the latch changes `RAW_PREV` alone and answers empty edge sets. -/
theorem sampleOfTheSameLevelsFindsNoEdge : Obligations.SampleOfTheSameLevelsFindsNoEdge := by
  intro s hf
  have hword : edgeWord 0 0 = 0 := by decide
  rw [exec_sample_latches hf, State.latch, joypadAfter_self, exitAfter_self, pressEdges_self, releaseEdges_self, hword]
  rfl

end Sys2Proof.Machine
